-- ==== Sys2Proof/Word.lean ====
section
/-! DEFINITION. The two machine types of the engine: the 64-bit word and the 8-bit byte (spec/00_scope.md R8). -/

namespace Sys2Proof

/-- A `word` is an unsigned 64-bit integer (R8); `+`, `^^^`, `&&&`, `~~~` on it are the operators of R9, modulo 2^64. -/
abbrev Word := BitVec 64

/-- A `byte` is an unsigned 8-bit integer (R8). -/
abbrev Byte := BitVec 8

end Sys2Proof
end

