-- ==== Sys2Proof/Config.lean ====
section
/-! DEFINITION. The parameters of an engine instance (spec/00_scope.md R7) and the values the spec leaves unspecified. -/

namespace Sys2Proof

/-- The OPEN parameter an instance fixes (R7): every rule holds for every value, so statements quantify over it.
`LEN_BITS` is not needed (R7 lets a model take `MSG_LEN` as an unbounded natural, log entry 13), and no rule depends on
`HOST_MAP` (log entry 23). -/
structure Params where
  /-- `MSG_CAP`: capacity of the message memory in bytes; any natural number, 0 allowed. -/
  msgCap : Nat
  deriving DecidableEq, Repr

/-- `PAD_CAP = 128 * ceil((MSG_CAP + 17) / 128)`: capacity of the padded-message memory (R7). -/
def Params.padCap (p : Params) : Nat := 128 * ((p.msgCap + 17 + 127) / 128)

/-- The capacity the spec's own programs take, `MSG_CAP = 1024` (95_test_vectors.md Part 3).
DESIGN CHOICE as the capacity of the machine right after `State.reset`, unsafe: log entry 1. -/
def Params.default : Params where
  msgCap := 1024

/-- `STRICT_LEN`, decided `false` for this hardware (R7, 60_exceptions.md R262; log entry 14). -/
def strictLen : Bool := false

/-- The byte that the `n`-th unspecified read of a port gives the host (10_state.md R40). It has no body, so nothing can be proved of
its value: a free value, log entry 6. -/
opaque Config.unspecifiedByte : Nat → Byte

/-- The number that the `n`-th unspecified read of a port gives the host, where the port is `MSG_LEN` or `PLEN` (10_state.md R40). A
free value, log entry 6. -/
opaque Config.unspecifiedNumber : Nat → Nat

end Sys2Proof
end

