-- ==== Sys2Proof/Syntax.lean ====
section
/-! DEFINITION. What is executed: the sixteen rows of spec/opcode_table.json, the two things that carry an encoding
(30_encoding.md R90), the host's port moves (45_host_commands.md R239) and the host-script lines (30_encoding.md R98). -/

namespace Sys2Proof

/-- One constructor per row of the opcode table (30_encoding.md R100). No row has an operand field or an immediate
(R91, R93, R95): every operand is implicit. -/
inductive Instr where
  /-- Command `DIGEST`, code `0x01` (45_host_commands.md R230). -/
  | digest
  /-- Command `PADDED`, code `0x02` (45_host_commands.md R231). -/
  | padded
  /-- `HOLD.IDLE`, phase code 0 (45_host_commands.md R235). -/
  | holdIdle
  /-- `INIT`, phase code 1 (40_constants_and_init.md R124). -/
  | init
  /-- `PAD_COPY`, phase code 2 (41_padding.md R150). -/
  | padCopy
  /-- `PAD_MARK`, phase code 3 (41_padding.md R151). -/
  | padMark
  /-- `PAD_ZERO`, phase code 4 (41_padding.md R152). -/
  | padZero
  /-- `PAD_LEN`, phase code 5 (41_padding.md R153). -/
  | padLen
  /-- `WLOAD`, phase code 6 (42_schedule.md R176). -/
  | wload
  /-- `WEXP`, phase code 7 (42_schedule.md R177). -/
  | wexp
  /-- `LOADV`, phase code 8 (43_compression.md R195). -/
  | loadv
  /-- `ROUND`, phase code 9 (43_compression.md R196). -/
  | round
  /-- `FEED`, phase code 10 (43_compression.md R198). -/
  | feed
  /-- `FINALIZE`, phase code 11 (44_digest_assembler.md R222). -/
  | finalize
  /-- `HOLD.DONE`, phase code 12 (45_host_commands.md R235). -/
  | holdDone
  /-- `HOLD.ERROR`, phase code 13 (45_host_commands.md R235). -/
  | holdError
  deriving DecidableEq, Repr

/-- The two encoded things of R90: the command byte written to `CMD` (format `CMD8`, R91) and the phase code held in the
register `phase` (format `PHASE4`, R93). -/
inductive Code where
  | cmd (c : BitVec 8)
  | phase (p : BitVec 4)
  deriving DecidableEq, Repr

/-- The host's only operations (45_host_commands.md R239), one constructor per port access. `CMD` is never readable, so
there is no move that reads it (10_state.md R40). -/
inductive HostMove where
  | writeMsg (a : Nat) (b : Byte)
  | writeMsgLen (n : Nat)
  | writeCmd (c : BitVec 8)
  | readStatus
  | readMsgLen
  | readMsg (a : Nat)
  | readPlen
  | readP (a : Nat)
  | readDig (a : Nat)
  deriving DecidableEq, Repr

/-- Who moves next, and with what (log entry 4): the engine, the host with a port access, the host polling `STATUS` until
`DONE` or `ERROR` (`WAIT`, R98; log entry 17), or the reset event (70_reset_and_hazards.md R300). -/
inductive Turn where
  | engine
  | host (m : HostMove)
  | wait
  | reset
  deriving DecidableEq, Repr

/-- The host-script notation of 30_encoding.md R98; a quoted text stands for the bytes it lists, so one form of `WRMSG`
serves all. -/
inductive ScriptLine where
  /-- `WRMSG a, …`: write the bytes to `MSG[a]`, `MSG[a+1]`, … in order. -/
  | wrmsg (a : Nat) (bs : List Byte)
  /-- `WRLEN n`. -/
  | wrlen (n : Nat)
  /-- `CMD c`. -/
  | cmd (c : BitVec 8)
  /-- `WAIT`. -/
  | wait
  /-- `RDSTATUS`. -/
  | rdstatus
  /-- `RDPLEN`. -/
  | rdplen
  /-- `RDP a, n`: read `P[a .. a+n)`. -/
  | rdp (a n : Nat)
  /-- `RDDIG`: read `DIG[0..127]`. -/
  | rddig
  deriving DecidableEq, Repr

end Sys2Proof
end

