-- ==== Sys2Proof/WellFormed.lean ====
section
/-! DEFINITION. The checks on terms of the syntax: which codes are assigned (30_encoding.md R92, R93, R96) and which
addresses exist (20_memory.md R60, 10_state.md R40). -/

namespace Sys2Proof

/-- Every instruction term is well formed: none has an operand that could be out of range (30_encoding.md R95). -/
def Instr.wf : Instr → Bool
  | .digest => true
  | .padded => true
  | .holdIdle => true
  | .init => true
  | .padCopy => true
  | .padMark => true
  | .padZero => true
  | .padLen => true
  | .wload => true
  | .wexp => true
  | .loadv => true
  | .round => true
  | .feed => true
  | .finalize => true
  | .holdDone => true
  | .holdError => true

/-- An assigned code: `0x01` or `0x02` for a command (R92), `0` to `13` for a phase (R93). The other command bytes are
illegal and the phases 14, 15 reserved (R96). -/
def Code.wf : Code → Bool
  | .cmd c => c == 0x01#8 || c == 0x02#8
  | .phase p => decide (p.toNat ≤ 13)

/-- A port access names a cell that exists (10_state.md R40, 20_memory.md R60). -/
def HostMove.wf (par : Params) : HostMove → Bool
  | .writeMsg a _ => decide (a < par.msgCap)
  | .writeMsgLen _ => true
  | .writeCmd _ => true
  | .readStatus => true
  | .readMsgLen => true
  | .readMsg a => decide (a < par.msgCap)
  | .readPlen => true
  | .readP a => decide (a < par.padCap)
  | .readDig a => decide (a < 128)

/-- A turn is well formed when its port access is. -/
def Turn.wf (par : Params) : Turn → Bool
  | .engine => true
  | .host m => m.wf par
  | .wait => true
  | .reset => true

/-- A script line names only cells that exist (30_encoding.md R98). -/
def ScriptLine.wf (par : Params) : ScriptLine → Bool
  | .wrmsg a bs => decide (a + bs.length ≤ par.msgCap)
  | .wrlen _ => true
  | .cmd _ => true
  | .wait => true
  | .rdstatus => true
  | .rdplen => true
  | .rdp a n => decide (a + n ≤ par.padCap)
  | .rddig => true

end Sys2Proof
end

