-- ==== Sys2Proof/Decode.lean ====
section
/-! DEFINITION. The decoder and, after it, the encoder, both written from the code tables of spec/30_encoding.md R92 and R93. -/

namespace Sys2Proof

/-- Phase code IDLE (R93). -/
abbrev Phase.idle : BitVec 4 := 0
/-- Phase code INIT (R93). -/
abbrev Phase.init : BitVec 4 := 1
/-- Phase code PAD_COPY (R93). -/
abbrev Phase.padCopy : BitVec 4 := 2
/-- Phase code PAD_MARK (R93). -/
abbrev Phase.padMark : BitVec 4 := 3
/-- Phase code PAD_ZERO (R93). -/
abbrev Phase.padZero : BitVec 4 := 4
/-- Phase code PAD_LEN (R93). -/
abbrev Phase.padLen : BitVec 4 := 5
/-- Phase code WLOAD (R93). -/
abbrev Phase.wload : BitVec 4 := 6
/-- Phase code WEXP (R93). -/
abbrev Phase.wexp : BitVec 4 := 7
/-- Phase code LOADV (R93). -/
abbrev Phase.loadv : BitVec 4 := 8
/-- Phase code ROUND (R93). -/
abbrev Phase.round : BitVec 4 := 9
/-- Phase code FEED (R93). -/
abbrev Phase.feed : BitVec 4 := 10
/-- Phase code FINALIZE (R93). -/
abbrev Phase.finalize : BitVec 4 := 11
/-- Phase code DONE (R93). -/
abbrev Phase.done : BitVec 4 := 12
/-- Phase code ERROR (R93). -/
abbrev Phase.error : BitVec 4 := 13

/-- Why a code has no instruction (R96). -/
inductive DecodeReject where
  /-- A command byte other than `0x01` and `0x02`. -/
  | illegalCommand (c : BitVec 8)
  /-- A phase code 14 or 15. -/
  | reservedPhase (p : BitVec 4)
  deriving DecidableEq, Repr

/-- The command decoder matches all 8 bits (R92: mask `0xFF`, match `0x01` or `0x02`). -/
def decodeCommand (c : BitVec 8) : Except DecodeReject Instr :=
  match c with
  | 0x01#8 => .ok .digest
  | 0x02#8 => .ok .padded
  | c => .error (.illegalCommand c)

/-- The micro-operation is a function of the 4-bit phase code alone (R94: mask `0xF`). -/
def decodePhase (p : BitVec 4) : Except DecodeReject Instr :=
  match p with
  | 0#4 => .ok .holdIdle
  | 1#4 => .ok .init
  | 2#4 => .ok .padCopy
  | 3#4 => .ok .padMark
  | 4#4 => .ok .padZero
  | 5#4 => .ok .padLen
  | 6#4 => .ok .wload
  | 7#4 => .ok .wexp
  | 8#4 => .ok .loadv
  | 9#4 => .ok .round
  | 10#4 => .ok .feed
  | 11#4 => .ok .finalize
  | 12#4 => .ok .holdDone
  | 13#4 => .ok .holdError
  | p => .error (.reservedPhase p)

/-- Decoding is total: every command byte and every phase code is an instruction or is rejected by name. -/
def decode : Code → Except DecodeReject Instr
  | .cmd c => decodeCommand c
  | .phase p => decodePhase p

/-- How a row of the opcode table given as `nbits` and a number is one of the two encoded things. Fewer than 8 bits is a
phase code. Eight bits are a command byte where they can be one (`0x01`, `0x02`, and every byte too large for a phase code), and
otherwise a phase code in the low four bits. The two formats share the numbers 1 and 2, and only the width tells them apart:
DESIGN CHOICE, log entry 15. -/
def tableCode (nbits w : Nat) : Option Code :=
  if 256 ≤ w then none
  else if 8 ≤ nbits ∧ (w = 1 ∨ w = 2 ∨ 16 ≤ w) then some (.cmd (BitVec.ofNat 8 w))
  else if 16 ≤ w then none
  else some (.phase (BitVec.ofNat 4 w))

/-- The instruction the decoder reads from a row's bits. -/
def decodeTableWord (nbits w : Nat) : Option Instr :=
  match tableCode nbits w with
  | none => none
  | some c =>
    match decode c with
    | .ok i => some i
    | .error _ => none

/-- The encoding of each row (R92, R93). -/
def encode : Instr → Code
  | .digest => .cmd 0x01#8
  | .padded => .cmd 0x02#8
  | .holdIdle => .phase Phase.idle
  | .init => .phase Phase.init
  | .padCopy => .phase Phase.padCopy
  | .padMark => .phase Phase.padMark
  | .padZero => .phase Phase.padZero
  | .padLen => .phase Phase.padLen
  | .wload => .phase Phase.wload
  | .wexp => .phase Phase.wexp
  | .loadv => .phase Phase.loadv
  | .round => .phase Phase.round
  | .feed => .phase Phase.feed
  | .finalize => .phase Phase.finalize
  | .holdDone => .phase Phase.done
  | .holdError => .phase Phase.error

end Sys2Proof
end

