-- ==== Sys2Proof/Machine/State.lean ====
section
/-! DEFINITION. The state of one engine instance with its host's side (spec/10_state.md R20), as plain data, and the
reasons a step can stop. -/

namespace Sys2Proof.Machine

/-- The three address spaces (20_memory.md R60). -/
inductive Space where
  | msg
  | p
  | dig
  deriving DecidableEq, Repr

/-- The host ports (10_state.md R40). -/
inductive Port where
  | cmd
  | status
  | msgLen
  | msg
  | plen
  | p
  | dig
  deriving DecidableEq, Repr

/-- The indexed elements a micro-operation picks by a counter: a word of `W`, an entry of `K`, a byte of the length field. -/
inductive Element where
  | scheduleWord
  | roundConstant
  | lengthFieldByte
  deriving DecidableEq, Repr

/-- Why the machine stops. None of these is one of the engine's own errors: those are the ERROR phase (60_exceptions.md R266). -/
inductive Fault where
  /-- The engine reads a byte of memory that nothing has written: an unwritten cell holds no value (R46, 93 U5; log entry 3).
  Raised by PAD_COPY, and by WLOAD in states no run reaches. Safe. -/
  | unwrittenByte (sp : Space) (a : Nat)
  /-- An access to an address outside the space (R60; log entries 9, 21). Raised by a host access past a memory's end, and by
  the engine in states no run reaches (R61). Safe. -/
  | noSuchAddress (sp : Space) (a : Nat)
  /-- A counter names an element that does not exist, such as `W[80]`, `K[80]` or `LF[16]` (R27; log entry 9). Raised by
  PAD_LEN, WLOAD, WEXP, ROUND in states no run reaches. Safe. -/
  | noSuchElement (e : Element) (n : Nat)
  /-- `phase` holds 14 or 15: no step (R96, 93 U6; log entry 8). Raised by the engine's turn and by a write to `CMD`. Safe. -/
  | reservedPhase (ph : BitVec 4)
  deriving DecidableEq, Repr

/-- What the model has no meaning for. -/
inductive Refusal where
  /-- An instruction of the table without a meaning. No arm of `exec` raises it. Safe. -/
  | notModelled (mnemonic : String)
  /-- A host write to `MSG` or `MSG_LEN` while the engine is not quiescent: the host has no such move (R41, 93 U4; log entry 7).
  Raised by the host's write moves. Unsafe for a host that breaks the duty of R310 row 1. -/
  | portWriteOutsideWindow (port : Port)
  deriving DecidableEq, Repr

/-- The working registers `a .. h`, also `v[0] .. v[7]` (R21). -/
structure Working where
  a : Word
  b : Word
  c : Word
  d : Word
  e : Word
  f : Word
  g : Word
  h : Word
  deriving DecidableEq, Repr

/-- The hash-state accumulator `h0 .. h7`, also `H[0] .. H[7]` (R22). -/
structure HashState where
  h0 : Word
  h1 : Word
  h2 : Word
  h3 : Word
  h4 : Word
  h5 : Word
  h6 : Word
  h7 : Word
  deriving DecidableEq, Repr

/-- A memory space: the bytes something has written, addresses strictly rising. An unlisted address holds no value (R46). -/
abbrev Memory := List Host.Cell

/-- The canonical form of a memory: addresses strictly rising. No entry can equal what an unlisted address reads as, since
that is no value at all. -/
def Memory.wf (m : Memory) : Bool := decide (m.Pairwise (fun x y => x.1 < y.1))

/-- A value a port read returned to the host (R40). -/
inductive Reading where
  | status (x : BitVec 16)
  | msgLen (n : Nat)
  | msg (a : Nat) (b : Byte)
  | plen (n : Nat)
  | p (a : Nat) (b : Byte)
  | dig (a : Nat) (b : Byte)
  deriving DecidableEq, Repr

/-- The state of one engine instance (R20), the host's Message in `MSG`, and the model's own fields. -/
structure State where
  /-- The model's: the parameters of this instance (R7; log entry 1). -/
  par : Params
  /-- `v[0..7]` (R21). -/
  v : Working
  /-- `H[0..7]` (R22). -/
  H : HashState
  /-- `W[0..79]` (R23). -/
  W : Vector Word 80
  /-- The space `MSG` (R60). -/
  msg : Memory
  /-- `MSG_LEN` (R30). -/
  msgLen : Nat
  /-- The space `P` (R60). -/
  p : Memory
  /-- `PLEN` (R31). -/
  plen : Nat
  /-- The space `DIG` (R60). -/
  dig : Memory
  /-- `phase`, 4 bits (R25). -/
  phase : BitVec 4
  /-- `op`, 1 bit: 0 for DIGEST, 1 for PADDED (R26). -/
  op : BitVec 1
  /-- `ERR`, 3 bits (R28). -/
  err : BitVec 3
  /-- `L`: the latched Message length (R26). -/
  L : Nat
  /-- `k`, 7 bits: the number of zero bytes (R26). -/
  k : BitVec 7
  /-- `j`: the byte counter of the padding stage (R26). -/
  j : Nat
  /-- `N`: the number of blocks (R26). -/
  N : Nat
  /-- `i`: the block index (R26). -/
  i : Nat
  /-- `t`, 7 bits: the word and round index (R26). -/
  t : BitVec 7
  /-- The model's: the host has written `MSG_LEN` since reset (R40; log entry 5). -/
  msgLenWritten : Bool
  /-- The model's: who moves next (log entry 4). An empty list is the engine's turn. -/
  agenda : List Turn
  /-- The model's: what port reads returned to the host, newest first (log entry 5). -/
  readings : List Reading
  /-- The model's: how many unspecified values port reads have given the host (R40; log entry 6). -/
  unspecifiedReads : Nat
  deriving DecidableEq, Repr

/-- What a word register that the spec leaves unwritten holds after reset: a value that is not zero, because R46 says a model
must not choose zero. DESIGN CHOICE, unsafe, log entry 2. -/
def resetWord : Word := 0xa5a5a5a5a5a5a5a5#64

/-- An instance right after reset (R45, R300): `phase` IDLE, `ERR` 0, `op` 0 so that `STATUS` reads `0x0000`, no byte of memory
written. Every other value is the model's: DESIGN CHOICE, unsafe, log entry 2. -/
def State.resetWith (par : Params) : State where
  par := par
  v := ⟨resetWord, resetWord, resetWord, resetWord, resetWord, resetWord, resetWord, resetWord⟩
  H := ⟨resetWord, resetWord, resetWord, resetWord, resetWord, resetWord, resetWord, resetWord⟩
  W := Vector.replicate 80 resetWord
  msg := []
  msgLen := 1
  p := []
  plen := 1
  dig := []
  phase := Phase.idle
  op := 0
  err := 0
  L := 1
  k := 1
  j := 1
  N := 2
  i := 1
  t := 16
  msgLenWritten := false
  agenda := []
  readings := []
  unspecifiedReads := 0

/-- The machine right after reset, with the capacity `MSG_CAP = 1024` of the spec's programs (log entry 1). -/
def State.reset : State := State.resetWith Params.default

end Sys2Proof.Machine
end

