-- ==== Sys2Proof/Machine/Functions.lean ====
section
/-! DEFINITION. The pure functions on words and bytes: byte order (spec/00_scope.md R10), the schedule's and the round's
mixing functions (42_schedule.md R170 to R173, 43_compression.md R190 to R194), and the digits of the digest
(44_digest_assembler.md R220, R221). -/

namespace Sys2Proof.Machine

/-- `be64`: the bytes as one big-endian word, the first the most significant (R10, R62). -/
def be64 (bs : List Byte) : Word := bs.foldl (fun w b => w * 256#64 + b.setWidth 64) 0#64

/-- `bytes_be64`: the eight bytes `x[63:56], …, x[7:0]` of a word in that order (R10). -/
def bytesBe64 (x : Word) : List Byte := (List.range 8).map fun n => x.extractLsb' (56 - 8 * n) 8

/-- `rotr(x, n)`, rotate right within 64 bits (R170). -/
def rotr (x : Word) (n : Nat) : Word := x.rotateRight n

/-- `shr(x, n)`, logical shift right (R171). -/
def shr (x : Word) (n : Nat) : Word := x >>> n

/-- `σ0` (R172). -/
def sigma0 (x : Word) : Word := rotr x 1 ^^^ rotr x 8 ^^^ shr x 7

/-- `σ1` (R173). -/
def sigma1 (x : Word) : Word := rotr x 19 ^^^ rotr x 61 ^^^ shr x 6

/-- `Σ0` (R190). -/
def bigSigma0 (a : Word) : Word := rotr a 28 ^^^ rotr a 34 ^^^ rotr a 39

/-- `Σ1` (R191). -/
def bigSigma1 (e : Word) : Word := rotr e 14 ^^^ rotr e 18 ^^^ rotr e 41

/-- `Ch` (R192). -/
def ch (e f g : Word) : Word := (e &&& f) ^^^ (~~~e &&& g)

/-- `Maj` (R193). -/
def maj (a b c : Word) : Word := (a &&& b) ^^^ (a &&& c) ^^^ (b &&& c)

/-- `T1` of a round (R194). -/
def roundT1 (v : Working) (kt wt : Word) : Word := v.h + bigSigma1 v.e + ch v.e v.f v.g + kt + wt

/-- `T2` of a round (R194). -/
def roundT2 (v : Working) : Word := bigSigma0 v.a + maj v.a v.b v.c

/-- The function `round` (R194): a simultaneous assignment, every right side of before the round. -/
def roundFn (v : Working) (kt wt : Word) : Working where
  a := roundT1 v kt wt + roundT2 v
  b := v.a
  c := v.b
  d := v.c
  e := v.d + roundT1 v kt wt
  f := v.e
  g := v.f
  h := v.g

/-- The schedule word from its four taps `W[t-2]`, `W[t-7]`, `W[t-15]`, `W[t-16]` (R174). -/
def expandWord (w2 w7 w15 w16 : Word) : Word := sigma1 w2 + w7 + sigma0 w15 + w16

/-- The words `h0 .. h7` taken as the working registers `a .. h` (R195). -/
def HashState.toWorking (H : HashState) : Working where
  a := H.h0
  b := H.h1
  c := H.h2
  d := H.h3
  e := H.h4
  f := H.h5
  g := H.h6
  h := H.h7

/-- The feed-forward `h0 += a, …, h7 += h`, each modulo 2^64 (R198). -/
def feedForward (H : HashState) (v : Working) : HashState where
  h0 := H.h0 + v.a
  h1 := H.h1 + v.b
  h2 := H.h2 + v.c
  h3 := H.h3 + v.d
  h4 := H.h4 + v.e
  h5 := H.h5 + v.f
  h6 := H.h6 + v.g
  h7 := H.h7 + v.h

/-- `H[0], …, H[7]` in order (R22). -/
def HashState.words (H : HashState) : List Word := [H.h0, H.h1, H.h2, H.h3, H.h4, H.h5, H.h6, H.h7]

/-- The ASCII code of a hexadecimal digit, lower case (R221). -/
def hexchar (x : BitVec 4) : Byte :=
  if x.toNat ≤ 9 then 0x30#8 + x.setWidth 8 else 0x61#8 + (x.setWidth 8 - 10#8)

/-- The sixteen digits of a word, most significant first, leading zeros kept (R220). -/
def hex16 (x : Word) : List Byte := (List.range 16).map fun d => hexchar (x.extractLsb' (60 - 4 * d) 4)

/-- `hexdigest`: 128 characters in state order `h0 .. h7` (R220). -/
def hexdigest (H : HashState) : List Byte := H.words.flatMap hex16

/-- The number of zero bytes of padding for a Message of `L` bytes (41_padding.md R141). -/
def padZeros (L : Nat) : Nat := (128 - (L + 1 + 16) % 128) % 128

/-- The low half of the length field: `(L · 8) mod 2^64` (R146; the spec's decision D17, log entry 14). -/
def lengthLow (L : Nat) : Word := BitVec.ofNat 64 (L * 8)

/-- The 16-byte length field `LF`: the high half always zero (R141, R146). -/
def lengthField (L : Nat) : List Byte := bytesBe64 0 ++ bytesBe64 (lengthLow L)

end Sys2Proof.Machine
end

