-- ==== Sys2Proof/Machine/Flags.lean ====
section
/-! DEFINITION. The engine's only flags, `BUSY`, `DONE` and `ERROR`, and the `STATUS` view made of them (spec/10_state.md R25, R29).
No datapath operation writes a flag. -/

namespace Sys2Proof.Machine

/-- `busy`: `phase` is one of the codes 1 to 11 (R25). -/
def isBusy (ph : BitVec 4) : Bool := decide (1 ≤ ph.toNat) && decide (ph.toNat ≤ 11)

/-- `STATUS.DONE` (R29). -/
def isDone (ph : BitVec 4) : Bool := ph == Phase.done

/-- `STATUS.ERROR` (R29). -/
def isError (ph : BitVec 4) : Bool := ph == Phase.error

/-- `quiescent`: `phase` is IDLE, DONE or ERROR (R25). The reserved codes 14, 15 are neither busy nor quiescent. -/
def isQuiescent (ph : BitVec 4) : Bool := ph == Phase.idle || isDone ph || isError ph

/-- `STATUS`, assembled on every read: bits 15:11 zero, 10:8 `ERR`, 7 `op`, 6 `ERROR`, 5 `DONE`, 4 `BUSY`, 3:0 `phase` (R29). -/
def statusWord (s : State) : BitVec 16 :=
  0#5 ++ s.err ++ s.op ++ BitVec.ofBool (isError s.phase) ++ BitVec.ofBool (isDone s.phase)
    ++ BitVec.ofBool (isBusy s.phase) ++ s.phase

end Sys2Proof.Machine
end

