-- ==== Sys2Proof/Machine/Ops.lean ====
section
/-! DEFINITION. The named operations over memory and registers, error entry and the way out of it, and command acceptance. -/

namespace Sys2Proof.Machine

/-- The byte at an address; an unlisted address holds no value (spec/10_state.md R46). -/
def Memory.read : Memory → Nat → Option Byte
  | [], _ => none
  | (x, b) :: m, a => if a = x then some b else Memory.read m a

/-- Write one byte, keeping the addresses strictly rising. -/
def Memory.write : Memory → Nat → Byte → Memory
  | [], a, b => [(a, b)]
  | (x, c) :: m, a, b =>
    if a < x then (a, b) :: (x, c) :: m
    else if a = x then (a, b) :: m
    else (x, c) :: Memory.write m a b

/-- The size of a space in bytes (20_memory.md R60). -/
def Params.size (par : Params) : Space → Nat
  | .msg => par.msgCap
  | .p => par.padCap
  | .dig => 128

/-- The contents of a space. -/
def State.mem (s : State) : Space → Memory
  | .msg => s.msg
  | .p => s.p
  | .dig => s.dig

/-- Replace the contents of a space. -/
def State.setMem (s : State) (sp : Space) (m : Memory) : State :=
  match sp with
  | .msg => { s with msg := m }
  | .p => { s with p := m }
  | .dig => { s with dig := m }

/-- What a cell holds: `none` where nothing has been written. -/
def State.peek (s : State) (sp : Space) (a : Nat) : Option Byte := (s.mem sp).read a

/-- `MemRead(sp, a, 1)` (00_scope.md R11): a read outside the space or of an unwritten cell faults (R60, R46). -/
def State.readByte (s : State) (sp : Space) (a : Nat) : Except Fault Byte :=
  if a < Params.size s.par sp then
    match s.peek sp a with
    | some b => .ok b
    | none => .error (.unwrittenByte sp a)
  else .error (.noSuchAddress sp a)

/-- `MemRead(sp, a, n)`: the bytes in address order (R11). -/
def State.readBytes (s : State) (sp : Space) : Nat → Nat → Except Fault (List Byte)
  | _, 0 => .ok []
  | a, n + 1 =>
    match s.readByte sp a with
    | .error f => .error f
    | .ok b =>
      match State.readBytes s sp (a + 1) n with
      | .error f => .error f
      | .ok bs => .ok (b :: bs)

/-- `MemWrite(sp, a, 1, [b])` (R11): a write outside the space faults (R60). -/
def State.writeByte (s : State) (sp : Space) (a : Nat) (b : Byte) : Except Fault State :=
  if a < Params.size s.par sp then .ok (s.setMem sp ((s.mem sp).write a b)) else .error (.noSuchAddress sp a)

/-- `MemWrite(sp, a, n, bs)`: the bytes to consecutive addresses in order (R11). -/
def State.writeBytes (s : State) (sp : Space) (a : Nat) : List Byte → Except Fault State
  | [] => .ok s
  | b :: bs =>
    match s.writeByte sp a b with
    | .error f => .error f
    | .ok s' => State.writeBytes s' sp (a + 1) bs

/-- Go on with an operand, or stop with the fault its reading raised. -/
def withOperand {α : Type} (r : Except Fault α) (go : α → Host.Outcome State Fault Refusal) :
    Host.Outcome State Fault Refusal :=
  match r with
  | .ok x => go x
  | .error f => .fault f

/-- The engine's errors (60_exceptions.md R260). -/
inductive ErrorName where
  | inputError
  | lengthOverflowError
  | illegalCommand
  deriving DecidableEq, Repr

/-- The code of an error in `ERR` (R260). -/
def errorCode : ErrorName → BitVec 3
  | .inputError => 1
  | .lengthOverflowError => 2
  | .illegalCommand => 3

/-- Error entry, `raise <Error>`: `phase <- ERROR`, `ERR <- code`, and nothing else is written or saved (R266). -/
def State.raise (s : State) (e : ErrorName) : State := { s with phase := Phase.error, err := errorCode e }

/-- The way out of ERROR: there is no return operation, the acceptance of the next command clears `ERR` (R267, R232). -/
def State.clearError (s : State) : State := { s with err := 0 }

/-- The start of an operation at acceptance: `op` is written and `phase <- INIT` (45_host_commands.md R232). -/
def State.start (s : State) (op : BitVec 1) : State := { s.clearError with op := op, phase := Phase.init }

/-- A write to `CMD` (R232, R233): accepted when quiescent, ignored when busy. In a reserved phase there is no step (R96). -/
def onCommand (s : State) (accept : State → State) : Host.Outcome State Fault Refusal :=
  if isBusy s.phase then .next s
  else if isQuiescent s.phase then .next (accept s)
  else .fault (.reservedPhase s.phase)

/-- A command byte that is no command: IllegalCommand at acceptance (R232, R263), ignored while busy (R233). -/
def illegalCommand (s : State) : Host.Outcome State Fault Refusal :=
  onCommand s fun s => s.clearError.raise .illegalCommand

/-- The host receives a value from a port; the engine is not touched (10_state.md R40: no side effect on read). -/
def State.observe (s : State) (r : Reading) : State := { s with readings := r :: s.readings }

/-- The host receives an unspecified value from a port, a fresh one each time: `r n` is the reading made of the `n`-th (10_state.md
R40; log entry 6). The engine is not touched. -/
def State.observeUnspecified (s : State) (r : Nat → Reading) : State :=
  { s.observe (r s.unspecifiedReads) with unspecifiedReads := s.unspecifiedReads + 1 }

/-- The reset event (70_reset_and_hazards.md R300): every element of the engine as after reset. The parameters are fixed, and the
host keeps what it has read and what it does next (log entry 11). -/
def State.resetEvent (s : State) : State :=
  { State.resetWith s.par with agenda := s.agenda, readings := s.readings, unspecifiedReads := s.unspecifiedReads }

end Sys2Proof.Machine
end

