-- ==== Sys2Proof/Machine/Operands.lean ====
section
/-! DEFINITION. The implicit operands of the micro-operations (spec/30_encoding.md R94, R95): the addresses the counters
select and the table and register-file elements they pick. -/

namespace Sys2Proof.Machine

/-- The address in `MSG` that PAD_COPY reads and in `P` that it writes (41_padding.md R150). -/
def State.copyAddr (s : State) : Nat := s.j

/-- The address of the marker byte in `P` (R151). -/
def State.markAddr (s : State) : Nat := s.L

/-- The address in `P` that PAD_ZERO writes (R152). -/
def State.zeroAddr (s : State) : Nat := s.L + 1 + s.j

/-- The address in `P` that PAD_LEN writes (R153). -/
def State.lenAddr (s : State) : Nat := s.L + 1 + s.k.toNat + s.j

/-- The value PAD_LEN gives `PLEN`: the length of the whole PaddedMessage (R153). -/
def State.paddedLength (s : State) : Nat := s.L + 1 + s.k.toNat + 16

/-- The address in `P` of the eight bytes WLOAD reads (42_schedule.md R176). -/
def State.wordAddr (s : State) : Nat := 128 * s.i + 8 * s.t.toNat

/-- `LF[n]`, a byte of the length field of the latched length (R153). There are sixteen. -/
def State.lengthFieldByte (s : State) (n : Nat) : Except Fault Byte :=
  match (lengthField s.L)[n]? with
  | some b => .ok b
  | none => .error (.noSuchElement .lengthFieldByte n)

/-- `W[n]` (10_state.md R23). There are eighty. -/
def State.scheduleWord (s : State) (n : Nat) : Except Fault Word :=
  match s.W[n]? with
  | some w => .ok w
  | none => .error (.noSuchElement .scheduleWord n)

/-- `W[n] <- w`. -/
def State.setScheduleWord (s : State) (n : Nat) (w : Word) : Except Fault State :=
  if h : n < 80 then .ok { s with W := s.W.set n w h } else .error (.noSuchElement .scheduleWord n)

/-- `K[n]` (40_constants_and_init.md R122). There are eighty. -/
def roundConstant (n : Nat) : Except Fault Word :=
  match kTable[n]? with
  | some k => .ok k
  | none => .error (.noSuchElement .roundConstant n)

/-- `W[t-d]`, a tap of WEXP (42_schedule.md R177): below `W[0]` there is none. -/
def State.tap (s : State) (d : Nat) : Except Fault Word :=
  if d ≤ s.t.toNat then s.scheduleWord (s.t.toNat - d) else .error (.noSuchElement .scheduleWord s.t.toNat)

end Sys2Proof.Machine
end

