-- ==== Sys2Proof/Machine/Compression.lean ====
section
/-! DEFINITION. The compression micro-operations (spec/43_compression.md R195, R196, R198). -/

namespace Sys2Proof.Machine

/-- `LOADV` (R195). -/
def execLoadv (s : State) : Host.Outcome State Fault Refusal :=
  .next { s with v := s.H.toWorking, t := 0, phase := Phase.round }

/-- `ROUND` (R196): round `t` uses `K[t]` and `W[t]` with the same index. -/
def execRound (s : State) : Host.Outcome State Fault Refusal :=
  withOperand (roundConstant s.t.toNat) fun kt =>
  withOperand (s.scheduleWord s.t.toNat) fun wt =>
    .next (if s.t = 79 then { s with v := roundFn s.v kt wt, phase := Phase.feed }
      else { s with v := roundFn s.v kt wt, t := s.t + 1 })

/-- `FEED` (R198). -/
def execFeed (s : State) : Host.Outcome State Fault Refusal :=
  .next (if s.i + 1 < s.N then
      { s with H := feedForward s.H s.v, i := s.i + 1, t := 0, phase := Phase.wload }
    else { s with H := feedForward s.H s.v, phase := Phase.finalize })

end Sys2Proof.Machine
end

