-- ==== Sys2Proof/Machine/DigestAssembler.lean ====
section
/-! DEFINITION. The digest assembler (spec/44_digest_assembler.md R222). -/

namespace Sys2Proof.Machine

/-- `FINALIZE` (R222): the 128 characters to `DIG[0..127]`, then DONE. -/
def execFinalize (s : State) : Host.Outcome State Fault Refusal :=
  withOperand (s.writeBytes .dig 0 (hexdigest s.H)) fun s' => .next { s' with phase := Phase.done }

end Sys2Proof.Machine
end

