-- ==== Sys2Proof/Machine/Hold.lean ====
section
/-! DEFINITION. The quiescent phase codes (spec/45_host_commands.md R235): the state does not change until the host writes `CMD`
or reset happens. As turns they are steps that change nothing (log entry 12). -/

namespace Sys2Proof.Machine

/-- `HOLD.IDLE` (R235). -/
def execHoldIdle (s : State) : Host.Outcome State Fault Refusal := .next s

/-- `HOLD.DONE` (R235). -/
def execHoldDone (s : State) : Host.Outcome State Fault Refusal := .next s

/-- `HOLD.ERROR` (R235). -/
def execHoldError (s : State) : Host.Outcome State Fault Refusal := .next s

end Sys2Proof.Machine
end

