-- ==== Sys2Proof/Machine/HostCommands.lean ====
section
/-! DEFINITION. The two host commands (spec/45_host_commands.md R230 to R233). -/

namespace Sys2Proof.Machine

/-- `DIGEST` (R230): on acceptance `ERR <- 0`, `op <- 0`, `phase <- INIT`. -/
def execDigest (s : State) : Host.Outcome State Fault Refusal := onCommand s fun s => s.start 0

/-- `PADDED` (R231): on acceptance `ERR <- 0`, `op <- 1`, `phase <- INIT`. -/
def execPadded (s : State) : Host.Outcome State Fault Refusal := onCommand s fun s => s.start 1

end Sys2Proof.Machine
end

