-- ==== Sys2Proof/Machine/Init.lean ====
section
/-! DEFINITION. The micro-operation INIT (spec/40_constants_and_init.md R124). -/

namespace Sys2Proof.Machine

/-- `INIT` (R124): InputError first, then LengthOverflowError only if `STRICT_LEN` (60_exceptions.md R265); on an error nothing but
`phase` and `ERR` is written. -/
def execInit (s : State) : Host.Outcome State Fault Refusal :=
  if s.msgLen > s.par.msgCap then .next (s.raise .inputError)
  else if strictLen && decide (s.msgLen * 8 ≥ 2 ^ 64) then .next (s.raise .lengthOverflowError)
  else
    .next { s with
      L := s.msgLen
      H := ivTable
      plen := 0
      j := 0
      phase := if s.msgLen > 0 then Phase.padCopy else Phase.padMark }

end Sys2Proof.Machine
end

