-- ==== Sys2Proof/Machine/Padding.lean ====
section
/-! DEFINITION. The padding state machine (spec/41_padding.md R150 to R153). -/

namespace Sys2Proof.Machine

/-- `PAD_COPY` (R150). -/
def execPadCopy (s : State) : Host.Outcome State Fault Refusal :=
  withOperand (s.readByte .msg s.copyAddr) fun b =>
  withOperand (s.writeByte .p s.copyAddr b) fun s' =>
    .next (if s.j + 1 = s.L then { s' with phase := Phase.padMark } else { s' with j := s.j + 1 })

/-- `PAD_MARK` (R151). -/
def execPadMark (s : State) : Host.Outcome State Fault Refusal :=
  withOperand (s.writeByte .p s.markAddr 0x80#8) fun s' =>
    .next { s' with
      k := BitVec.ofNat 7 (padZeros s.L)
      j := 0
      phase := if padZeros s.L > 0 then Phase.padZero else Phase.padLen }

/-- `PAD_ZERO` (R152). -/
def execPadZero (s : State) : Host.Outcome State Fault Refusal :=
  withOperand (s.writeByte .p s.zeroAddr 0x00#8) fun s' =>
    .next (if s.j + 1 = s.k.toNat then { s' with j := 0, phase := Phase.padLen } else { s' with j := s.j + 1 })

/-- `PAD_LEN` (R153). -/
def execPadLen (s : State) : Host.Outcome State Fault Refusal :=
  withOperand (s.lengthFieldByte s.j) fun b =>
  withOperand (s.writeByte .p s.lenAddr b) fun s' =>
    .next (if s.j = 15 then
        { s' with
          plen := s.paddedLength
          N := s.paddedLength / 128
          i := 0
          t := 0
          phase := if s.op = 1 then Phase.done else Phase.wload }
      else { s' with j := s.j + 1 })

end Sys2Proof.Machine
end

