-- ==== Sys2Proof/Machine/Schedule.lean ====
section
/-! DEFINITION. The message-schedule micro-operations (spec/42_schedule.md R176, R177). -/

namespace Sys2Proof.Machine

/-- `WLOAD` (R176). -/
def execWload (s : State) : Host.Outcome State Fault Refusal :=
  withOperand (s.readBytes .p s.wordAddr 8) fun bs =>
  withOperand (s.setScheduleWord s.t.toNat (be64 bs)) fun s' =>
    .next (if s.t = 15 then { s' with t := 16, phase := Phase.wexp } else { s' with t := s.t + 1 })

/-- `WEXP` (R177). -/
def execWexp (s : State) : Host.Outcome State Fault Refusal :=
  withOperand (s.tap 2) fun w2 =>
  withOperand (s.tap 7) fun w7 =>
  withOperand (s.tap 15) fun w15 =>
  withOperand (s.tap 16) fun w16 =>
  withOperand (s.setScheduleWord s.t.toNat (expandWord w2 w7 w15 w16)) fun s' =>
    .next (if s.t = 79 then { s' with phase := Phase.loadv } else { s' with t := s.t + 1 })

end Sys2Proof.Machine
end

