-- ==== Sys2Proof/Machine/Dispatch.lean ====
section
/-! DEFINITION. One arm per row of spec/opcode_table.json. -/

namespace Sys2Proof.Machine

def exec (i : Instr) (s : State) : Host.Outcome State Fault Refusal :=
  match i with
  | .digest => Sys2Proof.Machine.execDigest s
  | .padded => Sys2Proof.Machine.execPadded s
  | .holdIdle => Sys2Proof.Machine.execHoldIdle s
  | .init => Sys2Proof.Machine.execInit s
  | .padCopy => Sys2Proof.Machine.execPadCopy s
  | .padMark => Sys2Proof.Machine.execPadMark s
  | .padZero => Sys2Proof.Machine.execPadZero s
  | .padLen => Sys2Proof.Machine.execPadLen s
  | .wload => Sys2Proof.Machine.execWload s
  | .wexp => Sys2Proof.Machine.execWexp s
  | .loadv => Sys2Proof.Machine.execLoadv s
  | .round => Sys2Proof.Machine.execRound s
  | .feed => Sys2Proof.Machine.execFeed s
  | .finalize => Sys2Proof.Machine.execFinalize s
  | .holdDone => Sys2Proof.Machine.execHoldDone s
  | .holdError => Sys2Proof.Machine.execHoldError s

end Sys2Proof.Machine
end

