-- ==== Sys2Proof/Machine/Ports.lean ====
section
/-! DEFINITION. The host's port accesses other than `CMD` (spec/10_state.md R40, R41): what each does inside its window, and the
unspecified value a read gives outside it (log entry 6). A host write that the window does not allow is refused
(93_implementation_defined.md U4), and a cell that does not exist faults (20_memory.md R60). -/

namespace Sys2Proof.Machine

/-- Write `MSG[a]`: allowed when quiescent (R40, R41). -/
def hostWriteMsg (a : Nat) (b : Byte) (s : State) : Host.Outcome State Fault Refusal :=
  withOperand (s.writeByte .msg a b) fun s' =>
    if isQuiescent s.phase then .next s' else .refused (.portWriteOutsideWindow .msg)

/-- Write `MSG_LEN`: any value, when quiescent (R30, R40). -/
def hostWriteMsgLen (n : Nat) (s : State) : Host.Outcome State Fault Refusal :=
  if isQuiescent s.phase then .next { s with msgLen := n, msgLenWritten := true }
  else .refused (.portWriteOutsideWindow .msgLen)

/-- Read `STATUS`: always valid (R40). -/
def hostReadStatus (s : State) : Host.Outcome State Fault Refusal := .next (s.observe (.status (statusWord s)))

/-- A port read: the port's value inside its window, an unspecified value outside it (R40; log entry 6). -/
def hostReadPort (value : Option Reading) (unspecified : Nat → Reading) (s : State) : Host.Outcome State Fault Refusal :=
  match value with
  | some r => .next (s.observe r)
  | none => .next (s.observeUnspecified unspecified)

/-- A port read of one byte of a space: a byte nothing has written is outside every window. -/
def hostReadCell (sp : Space) (window : Bool) (a : Nat) (r : Byte → Reading) (s : State) :
    Host.Outcome State Fault Refusal :=
  if a < Params.size s.par sp then
    hostReadPort (if window then (s.peek sp a).map r else none) (fun n => r (Config.unspecifiedByte n)) s
  else .fault (.noSuchAddress sp a)

/-- Read `MSG_LEN`: always answered, with the last value written; unspecified before the first write (R40). -/
def hostReadMsgLen (s : State) : Host.Outcome State Fault Refusal :=
  hostReadPort (if s.msgLenWritten then some (.msgLen s.msgLen) else none)
    (fun n => .msgLen (Config.unspecifiedNumber n)) s

/-- Read `MSG[a]`: valid after the host wrote that byte (R40). -/
def hostReadMsg (a : Nat) (s : State) : Host.Outcome State Fault Refusal := hostReadCell .msg true a (.msg a) s

/-- Read `PLEN`: valid when `phase` = DONE (R40). -/
def hostReadPlen (s : State) : Host.Outcome State Fault Refusal :=
  hostReadPort (if isDone s.phase then some (.plen s.plen) else none) (fun n => .plen (Config.unspecifiedNumber n)) s

/-- Read `P[a]`: valid when `phase` = DONE, for `a < PLEN` (R40). -/
def hostReadP (a : Nat) (s : State) : Host.Outcome State Fault Refusal :=
  hostReadCell .p (isDone s.phase && decide (a < s.plen)) a (.p a) s

/-- Read `DIG[a]`: valid when `phase` = DONE and `op` = 0 (R40). -/
def hostReadDig (a : Nat) (s : State) : Host.Outcome State Fault Refusal :=
  hostReadCell .dig (isDone s.phase && s.op == 0) a (.dig a) s

end Sys2Proof.Machine
end

