-- ==== Sys2Proof/Machine/Sequencer.lean ====
section
/-! DEFINITION. One turn of each agent (spec/00_scope.md R5): the engine's step (30_encoding.md R94), the host's moves
(45_host_commands.md R239), and where a step finds the code it runs. -/

namespace Sys2Proof.Machine

/-- Run the instruction a code stands for. A command byte that is none is IllegalCommand (R96, R263); a reserved phase has no
step (R96, 93 U6). -/
def runCode (c : Code) (s : State) : Host.Outcome State Fault Refusal :=
  match decode c with
  | .ok i => exec i s
  | .error (.illegalCommand _) => illegalCommand s
  | .error (.reservedPhase p) => .fault (.reservedPhase p)

/-- A step of the engine: read `phase` and perform the micro-operation of that code (R94). -/
def engineTurn (s : State) : Host.Outcome State Fault Refusal := runCode (.phase s.phase) s

/-- A move of the host (R239). -/
def hostTurn (m : HostMove) (s : State) : Host.Outcome State Fault Refusal :=
  match m with
  | .writeMsg a b => hostWriteMsg a b s
  | .writeMsgLen n => hostWriteMsgLen n s
  | .writeCmd c => runCode (.cmd c) s
  | .readStatus => hostReadStatus s
  | .readMsgLen => hostReadMsgLen s
  | .readMsg a => hostReadMsg a s
  | .readPlen => hostReadPlen s
  | .readP a => hostReadP a s
  | .readDig a => hostReadDig a s

/-- `WAIT` (30_encoding.md R98): a poll of `STATUS` that finds `DONE` or `ERROR` ends it and is the reading the host keeps; any
other poll leaves it standing and the engine takes a step meanwhile (R237; log entry 17). `rest` is the agenda after it. -/
def waitTurn (rest : List Turn) (s : State) : Host.Outcome State Fault Refusal :=
  if isDone s.phase || isError s.phase then .next ({ s with agenda := rest }.observe (.status (statusWord s)))
  else engineTurn s

/-- One turn of the agent that moves next; an empty agenda is the engine's turn (log entry 4). -/
def takeTurn (s : State) : Host.Outcome State Fault Refusal :=
  match s.agenda with
  | [] => engineTurn s
  | .engine :: rest => engineTurn { s with agenda := rest }
  | .host m :: rest => hostTurn m { s with agenda := rest }
  | .wait :: rest => waitTurn rest s
  | .reset :: rest => .next (State.resetEvent { s with agenda := rest })

/-- The code the next step decodes, where it decodes one: the phase code on the engine's turn, the byte the host writes to
`CMD` (30_encoding.md R90). -/
def State.nextCode (s : State) : Option Code :=
  match s.agenda with
  | [] => some (.phase s.phase)
  | .engine :: _ => some (.phase s.phase)
  | .host (.writeCmd c) :: _ => some (.cmd c)
  | .host _ :: _ => none
  | .wait :: _ => if isDone s.phase || isError s.phase then none else some (.phase s.phase)
  | .reset :: _ => none

/-- The state in which a turn is taken: the turn itself is used up, but for `WAIT`, which stands until it ends. -/
def State.afterTurn (s : State) : State :=
  match s.agenda with
  | [] => s
  | .wait :: _ => s
  | _ :: rest => { s with agenda := rest }

/-- Put a code where the next step finds it: a command byte as the host's next write to `CMD`, a phase code into `phase` on the
engine's turn (log entry 15). -/
def State.placeCode (s : State) : Code → State
  | .cmd c => { s with agenda := .host (.writeCmd c) :: s.agenda }
  | .phase p => { s with phase := p, agenda := .engine :: s.agenda }

/-- The turns a script line stands for (30_encoding.md R98). -/
def ScriptLine.turns : ScriptLine → List Turn
  | .wrmsg a bs => (bs.zipIdx a).map fun c => .host (.writeMsg c.2 c.1)
  | .wrlen n => [.host (.writeMsgLen n)]
  | .cmd c => [.host (.writeCmd c)]
  | .wait => [.wait]
  | .rdstatus => [.host .readStatus]
  | .rdplen => [.host .readPlen]
  | .rdp a n => (List.range' a n).map fun x => .host (.readP x)
  | .rddig => (List.range 128).map fun x => .host (.readDig x)

/-- The turns of a host script, line by line (30_encoding.md R98). DESIGN CHOICE, log entry 24: no engine turn stands between two lines
or between the moves of one line, so the engine moves only while `WAIT` stands. The spec does not order the host's lines against the
engine's steps (95_test_vectors.md PR5 admits two outcomes); every other interleaving is an agenda of its own. -/
def scriptTurns (ls : List ScriptLine) : List Turn := ls.flatMap ScriptLine.turns

end Sys2Proof.Machine
end

