-- ==== Sys2Proof/Machine/Step.lean ====
section
/-! DEFINITION. One step of the whole machine, and the placing of an instruction where the next step finds it. -/

namespace Sys2Proof.Machine

/-- One step: one turn of the agent that moves next. -/
def step (s : State) : Host.Outcome State Fault Refusal := takeTurn s

/-- `s` with the row's instruction placed so that the very next step runs it (log entries 15, 16). -/
def State.withFetchWord (s : State) (nbits w : Nat) : State :=
  match tableCode nbits w with
  | some c => s.placeCode c
  | none => s

/-- `n` steps, stopping at the first fault or refusal. -/
def run : Nat → State → Host.Outcome State Fault Refusal
  | 0, s => .next s
  | n + 1, s =>
    match step s with
    | .next s' => run n s'
    | .fault f => .fault f
    | .refused r => .refused r

end Sys2Proof.Machine
end

