-- ==== Sys2Proof/Machine/Reference.lean ====
section
/-! DEFINITION. The functions the engine computes, as the spec writes them apart from the micro-operations: `pad` (spec/41_padding.md
R141), `sched` (42_schedule.md R174), `compress` (43_compression.md R199), the chain over the blocks (R200), `digest`
(45_host_commands.md R230), and the two pseudo-instructions as host scripts (30_encoding.md R99). No step calls them. -/

namespace Sys2Proof.Machine

/-- `pad(M) = M ++ [0x80] ++ zeros(k) ++ LF` (R141). -/
def pad (M : List Byte) : List Byte :=
  M ++ [0x80#8] ++ List.replicate (padZeros M.length) 0x00#8 ++ lengthField M.length

/-- The length of a padded Message of `L` bytes, `L + 1 + k + 16` (R141). -/
def padLength (L : Nat) : Nat := L + 1 + padZeros L + 16

/-- Block `i` of a padded Message: `P[128·i .. 128·i + 128)` (20_memory.md R64). -/
def block (P : List Byte) (i : Nat) : List Byte := (P.drop (128 * i)).take 128

/-- The blocks of a padded Message in order (R65). -/
def blocks (P : List Byte) : List (List Byte) := (List.range (P.length / 128)).map (block P)

/-- `W[n]` of the block `B`, given the words before it (R174). -/
def nextScheduleWord (B : List Byte) (ws : List Word) (n : Nat) : Word :=
  if n < 16 then be64 ((B.drop (8 * n)).take 8)
  else expandWord (ws.getD (n - 2) 0) (ws.getD (n - 7) 0) (ws.getD (n - 15) 0) (ws.getD (n - 16) 0)

/-- The first `n` words of the schedule of the block `B` (R174). -/
def schedWords (B : List Byte) : Nat → List Word
  | 0 => []
  | n + 1 => schedWords B n ++ [nextScheduleWord B (schedWords B n) n]

/-- `sched(B)`: the eighty words `W[0..79]` (R174). -/
def sched (B : List Byte) : List Word := schedWords B 80

/-- The working registers after the rounds of the given constants and schedule words, in order (R199). -/
def rounds (v : Working) (kws : List (Word × Word)) : Working :=
  kws.foldl (fun v kw => roundFn v kw.1 kw.2) v

/-- `compress(Hin, B)` (R199). -/
def compress (Hin : HashState) (B : List Byte) : HashState :=
  feedForward Hin (rounds Hin.toWorking (kTable.zip (sched B)))

/-- The chain `H_0 = IV`, `H_(i+1) = compress(H_i, block i)` over the blocks of a padded Message (R200). -/
def chain (P : List Byte) : HashState := (blocks P).foldl compress ivTable

/-- `digest(M)`: the 128 characters (R230). -/
def digest (M : List Byte) : List Byte := hexdigest (chain (pad M))

/-- The pseudo-instruction `digest(M)` (R99). -/
def digestScript (M : List Byte) : List ScriptLine :=
  [.wrmsg 0 M, .wrlen M.length, .cmd 0x01#8, .wait, .rddig]

/-- The pseudo-instruction `paddedBytes(M)` (R99). The length of the last read is the value `RDPLEN` returns, which is the length of
`pad(M)` (R231). -/
def paddedScript (M : List Byte) : List ScriptLine :=
  [.wrmsg 0 M, .wrlen M.length, .cmd 0x02#8, .wait, .rdplen, .rdp 0 (padLength M.length)]

end Sys2Proof.Machine
end

