-- ==== Sys2Proof/Safety.lean ====
section
/-! DEFINITION. What a good state is, in the terms the statements use: what a memory holds, the invariant every step keeps phase
by phase, and which states agree on control. -/

namespace Sys2Proof.Machine

/-- Every cell of `sp` at an address below `n` has been written. -/
abbrev State.written (s : State) (sp : Space) (n : Nat) : Prop := ∀ a, a < n → (s.peek sp a).isSome = true

/-- `sp` holds the bytes `bs` from address `a` on: `sp[a .. a + len(bs)) = bs`. -/
abbrev State.holds (s : State) (sp : Space) (a : Nat) (bs : List Byte) : Prop :=
  ∀ n, n < bs.length → s.peek sp (a + n) = bs[n]?

/-- The memory names no address at or past `n`. -/
abbrev Memory.below (m : Memory) (n : Nat) : Prop := ∀ c ∈ m, c.1 < n

/-- A whole PaddedMessage stands in `P`: the length is that of a Message the memory can hold, and every byte is written
(spec/10_state.md R31, 41_padding.md R143). -/
abbrev State.paddedReady (s : State) : Prop :=
  s.L ≤ s.par.msgCap ∧ s.plen = padLength s.L ∧ s.written .p s.plen

/-- A DIGEST is processing block `i` of `N` (45_host_commands.md R234). -/
abbrev State.inBlock (s : State) : Prop :=
  s.paddedReady ∧ s.op = 0 ∧ s.N = s.plen / 128 ∧ s.i < s.N

/-- The bounds on the sequencer position and what has been written by then, for each phase (10_state.md R27, R46; 20_memory.md
R61). -/
abbrev State.seqInv (s : State) : Prop :=
  (s.phase = Phase.padCopy → s.L ≤ s.par.msgCap ∧ s.j < s.L ∧ s.written .p s.j) ∧
  (s.phase = Phase.padMark → s.L ≤ s.par.msgCap ∧ s.written .p s.L) ∧
  (s.phase = Phase.padZero →
    s.L ≤ s.par.msgCap ∧ s.k.toNat = padZeros s.L ∧ s.j < s.k.toNat ∧ s.written .p (s.L + 1 + s.j)) ∧
  (s.phase = Phase.padLen →
    s.L ≤ s.par.msgCap ∧ s.k.toNat = padZeros s.L ∧ s.j ≤ 15 ∧ s.written .p (s.L + 1 + s.k.toNat + s.j)) ∧
  (s.phase = Phase.wload → s.inBlock ∧ s.t.toNat ≤ 15) ∧
  (s.phase = Phase.wexp → s.inBlock ∧ 16 ≤ s.t.toNat ∧ s.t.toNat ≤ 79) ∧
  (s.phase = Phase.loadv → s.inBlock) ∧
  (s.phase = Phase.round → s.inBlock ∧ s.t.toNat ≤ 79) ∧
  (s.phase = Phase.feed → s.inBlock) ∧
  (s.phase = Phase.finalize → s.paddedReady ∧ s.op = 0) ∧
  (s.phase = Phase.done →
    s.plen % 128 = 0 ∧ 0 < s.plen ∧ s.plen ≤ s.par.padCap ∧ s.written .p s.plen ∧ (s.op = 0 → s.written .dig 128))

/-- The invariant of the machine: canonical memories inside their spaces (20_memory.md R60), a `phase` that is one of the fourteen
codes (R27), an `ERR` that is set exactly in ERROR and never 2 or above 3 (10_state.md R28, 60_exceptions.md R260, R262), and the
bounds of each phase. -/
structure State.Inv (s : State) : Prop where
  msgWf : Memory.wf s.msg = true
  pWf : Memory.wf s.p = true
  digWf : Memory.wf s.dig = true
  msgBelow : Memory.below s.msg s.par.msgCap
  pBelow : Memory.below s.p s.par.padCap
  digBelow : Memory.below s.dig 128
  phaseLegal : s.phase.toNat ≤ 13
  errLegal : if s.phase = Phase.error then s.err = 1 ∨ s.err = 3 else s.err = 0
  seq : s.seqInv

/-- Two states agree on everything that decides the engine's path: the sequencer position, the counts, `op`, the lengths and the
capacity, and not on any Message byte, schedule word or hash word (45_host_commands.md R238). -/
abbrev State.sameControl (s u : State) : Prop :=
  s.par = u.par ∧ s.phase = u.phase ∧ s.i = u.i ∧ s.t = u.t ∧ s.j = u.j ∧ s.L = u.L ∧ s.k = u.k ∧ s.N = u.N ∧
    s.op = u.op ∧ s.err = u.err ∧ s.msgLen = u.msgLen ∧ s.plen = u.plen

/-- A move of the host that only reads a port (10_state.md R40). -/
def HostMove.isRead : HostMove → Bool
  | .writeMsg _ _ => false
  | .writeMsgLen _ => false
  | .writeCmd _ => false
  | .readStatus => true
  | .readMsgLen => true
  | .readMsg _ => true
  | .readPlen => true
  | .readP _ => true
  | .readDig _ => true

/-- In `s` the read `m` gives the host the reading `r`, made of an unspecified value, and touches nothing else (10_state.md R40; log
entry 6). -/
abbrev State.readsUnspecified (s : State) (m : HostMove) (r : Reading) : Prop :=
  hostTurn m s = .next { s with readings := r :: s.readings, unspecifiedReads := s.unspecifiedReads + 1 }

/-- In `s` no result of an operation can be read: every read of `P`, `PLEN` and `DIG` gives an unspecified value (10_state.md R40), a
free one (log entry 6). -/
abbrev State.resultsUnreadable (s : State) : Prop :=
  (∀ a, a < s.par.padCap → s.readsUnspecified (.readP a) (.p a (Config.unspecifiedByte s.unspecifiedReads))) ∧
  s.readsUnspecified .readPlen (.plen (Config.unspecifiedNumber s.unspecifiedReads)) ∧
  ∀ a, a < 128 → s.readsUnspecified (.readDig a) (.dig a (Config.unspecifiedByte s.unspecifiedReads))

/-- The rows of the transition table that the engine itself takes, quiescent phases standing still (45_host_commands.md R234,
R235). -/
def engineTransitions : List (BitVec 4 × BitVec 4) :=
  [(Phase.idle, Phase.idle), (Phase.init, Phase.error), (Phase.init, Phase.padCopy), (Phase.init, Phase.padMark),
   (Phase.padCopy, Phase.padCopy), (Phase.padCopy, Phase.padMark), (Phase.padMark, Phase.padZero),
   (Phase.padMark, Phase.padLen), (Phase.padZero, Phase.padZero), (Phase.padZero, Phase.padLen),
   (Phase.padLen, Phase.padLen), (Phase.padLen, Phase.wload), (Phase.padLen, Phase.done),
   (Phase.wload, Phase.wload), (Phase.wload, Phase.wexp), (Phase.wexp, Phase.wexp), (Phase.wexp, Phase.loadv),
   (Phase.loadv, Phase.round), (Phase.round, Phase.round), (Phase.round, Phase.feed), (Phase.feed, Phase.wload),
   (Phase.feed, Phase.finalize), (Phase.finalize, Phase.done), (Phase.done, Phase.done), (Phase.error, Phase.error)]

/-- The number of engine steps of a DIGEST of `L` bytes, INIT to FINALIZE (45_host_commands.md R236). -/
def digestSteps (L : Nat) : Nat := padLength L + 162 * (padLength L / 128) + 2

/-- The number of engine steps of a PADDED of `L` bytes (45_host_commands.md R236). -/
def paddedSteps (L : Nat) : Nat := padLength L + 1

end Sys2Proof.Machine
end

