-- ==== Sys2Proof/Certificates/Slice0/Obligations.lean ====
section
/-! DEFINITION. The statements about the machine, each after the rule of spec/ it formalises. -/

open Sys2Proof Sys2Proof.Machine

/-! ## Encodings -/

/-- R92, R93: the sixteen codes, and every other command byte illegal, every other phase code reserved. -/
def Obligations.CodesAreTheTables : Prop :=
  decode (.cmd 0x01#8) = .ok .digest ∧ decode (.cmd 0x02#8) = .ok .padded ∧
  (∀ c : BitVec 8, c ≠ 0x01#8 → c ≠ 0x02#8 → decode (.cmd c) = .error (.illegalCommand c)) ∧
  decode (.phase 0#4) = .ok .holdIdle ∧ decode (.phase 1#4) = .ok .init ∧
  decode (.phase 2#4) = .ok .padCopy ∧ decode (.phase 3#4) = .ok .padMark ∧
  decode (.phase 4#4) = .ok .padZero ∧ decode (.phase 5#4) = .ok .padLen ∧
  decode (.phase 6#4) = .ok .wload ∧ decode (.phase 7#4) = .ok .wexp ∧
  decode (.phase 8#4) = .ok .loadv ∧ decode (.phase 9#4) = .ok .round ∧
  decode (.phase 10#4) = .ok .feed ∧ decode (.phase 11#4) = .ok .finalize ∧
  decode (.phase 12#4) = .ok .holdDone ∧ decode (.phase 13#4) = .ok .holdError ∧
  decode (.phase 14#4) = .error (.reservedPhase 14#4) ∧ decode (.phase 15#4) = .error (.reservedPhase 15#4)

/-- R92, R93: decoding a well-formed instruction's encoding gives it back, and a code that decodes is that instruction's encoding
and an assigned one. -/
def Obligations.DecodeAndEncodeAgree : Prop :=
  (∀ i : Instr, i.wf = true → decode (encode i) = .ok i) ∧
  (∀ (c : Code) (i : Instr), decode c = .ok i → encode i = c ∧ c.wf = true)

/-- Words written out from R92 and R93, in the numbering of the opcode table. With eight bits the numbers 1 and 2 are read as
commands: the model's choice, log entry 15. -/
def Obligations.SampleWordsDecode : Prop :=
  decodeTableWord 8 0b00000001 = some .digest ∧ decodeTableWord 8 0b00000010 = some .padded ∧
  decodeTableWord 4 0b0001 = some .init ∧ decodeTableWord 4 0b0010 = some .padCopy ∧
  decodeTableWord 8 0b0110 = some .wload ∧ decodeTableWord 8 0b1001 = some .round ∧
  decodeTableWord 8 0b1011 = some .finalize ∧ decodeTableWord 8 0b1100 = some .holdDone ∧
  decodeTableWord 8 0b1110 = none ∧ decodeTableWord 8 0b11111111 = none

/-! ## Steps -/

/-- R94: when the code at the next step's fetch decodes to an instruction, the step is `exec` of it in the state in which the turn
is used up, and using up a turn changes the agenda alone. -/
def Obligations.StepRunsTheDecodedInstruction : Prop :=
  ∀ (s : State) (c : Code) (i : Instr), s.nextCode = some c → decode c = .ok i →
    step s = exec i s.afterTurn ∧ s.afterTurn = { s with agenda := s.afterTurn.agenda }

/-- A row's word, placed where the next step fetches, is what the next step runs: a command in the state it was placed in, a
micro-operation in that state with its code in `phase`. Nothing else is touched (log entries 15, 16). -/
def Obligations.PlacedWordIsRunNext : Prop :=
  ∀ (s : State) (nbits w : Nat) (i : Instr), decodeTableWord nbits w = some i →
    ∃ u, step (s.withFetchWord nbits w) = exec i u ∧ u = { s with phase := u.phase } ∧
      (∀ c, encode i = .cmd c → u.phase = s.phase) ∧ (∀ ph, encode i = .phase ph → u.phase = ph)

/-! ## Commands -/

/-- R230, R231, R232, R233: a command starts an operation when the engine is quiescent and is ignored while it is busy. That it stops
with a named fault in a reserved phase, which R96 and 93 U6 call stuck, is the model's treatment, log entry 8. -/
def Obligations.CommandsStartAnOperation : Prop :=
  (∀ s : State, isQuiescent s.phase = true →
    exec .digest s = .next { s with err := 0, op := 0, phase := 1 } ∧
    exec .padded s = .next { s with err := 0, op := 1, phase := 1 }) ∧
  (∀ s : State, isBusy s.phase = true → exec .digest s = .next s ∧ exec .padded s = .next s) ∧
  (∀ s : State, 14 ≤ s.phase.toNat →
    exec .digest s = .fault (.reservedPhase s.phase) ∧ exec .padded s = .fault (.reservedPhase s.phase))

/-- R232, R263: acceptance of any byte while quiescent: what it writes, that it writes nothing else, and that no other command overlaps
the operation. A byte that is no command ends at once in ERROR with code 3. That `P`, `PLEN` and `DIG` are no longer readable is R232's
and R40's; that a read of them is answered all the same, with a free value, is the model's choice, log entry 6. -/
def Obligations.AcceptanceWritesOpErrPhaseOnly : Prop :=
  ∀ (s : State) (c : BitVec 8) (rest : List Turn), s.agenda = .host (.writeCmd c) :: rest →
    (s.phase = 0 ∨ s.phase = 12 ∨ s.phase = 13) →
    ∃ t, step s = .next t ∧
      t = { s with
        agenda := rest
        err := if c = 1 ∨ c = 2 then 0 else 3
        op := if c = 1 then 0 else if c = 2 then 1 else s.op
        phase := if c = 1 ∨ c = 2 then 1 else 13 } ∧
      t.resultsUnreadable ∧
      (c = 1 ∨ c = 2 → ∀ d, hostTurn (.writeCmd d) t = .next t)

/-- R233: any byte written to `CMD` in a phase 1 to 11 changes nothing. -/
def Obligations.CommandWhileBusyIsIgnored : Prop :=
  ∀ (s : State) (c : BitVec 8) (rest : List Turn), s.agenda = .host (.writeCmd c) :: rest →
    1 ≤ s.phase.toNat → s.phase.toNat ≤ 11 → step s = .next { s with agenda := rest }

/-! ## INIT -/

/-- R124, R261: INIT raises InputError exactly when `MSG_LEN > MSG_CAP`, writing `phase` and `ERR` alone; otherwise it latches the
length, loads `IV` and starts the padding, and touches nothing else. -/
def Obligations.InitChecksLengthThenLoads : Prop :=
  ∀ s : State,
    (s.msgLen > s.par.msgCap → exec .init s = .next { s with phase := 13, err := 1 }) ∧
    (s.msgLen ≤ s.par.msgCap → exec .init s = .next { s with
      L := s.msgLen
      H := ⟨0x6a09e667f3bcc908, 0xbb67ae8584caa73b, 0x3c6ef372fe94f82b, 0xa54ff53a5f1d36f1,
        0x510e527fade682d1, 0x9b05688c2b3e6c1f, 0x1f83d9abfb41bd6b, 0x5be0cd19137e2179⟩
      plen := 0
      j := 0
      phase := if s.msgLen = 0 then 3 else 2 })

/-! ## The padding micro-operations -/

/-- R150: one byte is copied from `MSG[j]` to `P[j]`, every other byte reads as before, and the counter or the phase advances. The
address in `P` exists because `MSG_CAP < PAD_CAP`. -/
def Obligations.PadCopyCopiesOneByte : Prop :=
  ∀ (s : State) (b : Byte), s.copyAddr < s.par.msgCap → s.peek .msg s.copyAddr = some b →
    ∃ t, exec .padCopy s = .next t ∧ t.peek .p s.copyAddr = some b ∧
      (∀ a, a ≠ s.copyAddr → t.peek .p a = s.peek .p a) ∧
      (s.j + 1 = s.L → t.phase = 3 ∧ t.j = s.j) ∧ (s.j + 1 ≠ s.L → t.phase = s.phase ∧ t.j = s.j + 1) ∧
      t = { s with p := t.p, j := t.j, phase := t.phase }

/-- R151: the marker byte goes to `P[L]`, `k` is computed, `j` is cleared; with no zero byte to write the length field follows. The
address exists for every length that INIT lets through. -/
def Obligations.PadMarkWritesTheMarker : Prop :=
  ∀ s : State, s.L ≤ s.par.msgCap →
    ∃ t, exec .padMark s = .next t ∧ t.peek .p s.markAddr = some 0x80#8 ∧
      (∀ a, a ≠ s.markAddr → t.peek .p a = s.peek .p a) ∧
      t.k.toNat = (128 - (s.L + 1 + 16) % 128) % 128 ∧ t.j = 0 ∧
      (s.L % 128 = 111 → t.phase = 5) ∧ (s.L % 128 ≠ 111 → t.phase = 4) ∧
      t = { s with p := t.p, k := t.k, j := t.j, phase := t.phase }

/-- R152: one zero byte goes to `P[L + 1 + j]`; after `k` of them the length field follows. -/
def Obligations.PadZeroWritesOneZero : Prop :=
  ∀ s : State, s.zeroAddr < s.par.padCap →
    ∃ t, exec .padZero s = .next t ∧ t.peek .p s.zeroAddr = some 0x00#8 ∧
      (∀ a, a ≠ s.zeroAddr → t.peek .p a = s.peek .p a) ∧
      (s.j + 1 = s.k.toNat → t.phase = 5 ∧ t.j = 0) ∧
      (s.j + 1 ≠ s.k.toNat → t.phase = s.phase ∧ t.j = s.j + 1) ∧
      t = { s with p := t.p, j := t.j, phase := t.phase }

/-- R153: byte `j` of the 16-byte length field goes to `P[L + 1 + k + j]`: for `j < 8` it is zero, from 8 on it is a byte of
`(L · 8) mod 2^64`, the most significant first. The last one also sets `PLEN`, `N`, `i`, `t` and ends the stage. -/
def Obligations.PadLenWritesTheLengthField : Prop :=
  ∀ s : State, s.j ≤ 15 → s.lenAddr < s.par.padCap →
    ∃ t b, exec .padLen s = .next t ∧ t.peek .p s.lenAddr = some b ∧
      (s.j < 8 → b = 0) ∧ (8 ≤ s.j → b.toNat = s.L * 8 % 2 ^ 64 / 2 ^ (8 * (15 - s.j)) % 256) ∧
      (∀ a, a ≠ s.lenAddr → t.peek .p a = s.peek .p a) ∧
      (s.j = 15 → t.plen = s.L + 1 + s.k.toNat + 16 ∧ t.N = (s.L + 1 + s.k.toNat + 16) / 128 ∧ t.i = 0 ∧ t.t = 0 ∧
        t.j = s.j ∧ t.phase = if s.op = 1 then 12 else 6) ∧
      (s.j ≠ 15 → t.plen = s.plen ∧ t.N = s.N ∧ t.i = s.i ∧ t.t = s.t ∧ t.j = s.j + 1 ∧ t.phase = s.phase) ∧
      t = { s with p := t.p, plen := t.plen, N := t.N, i := t.i, t := t.t, j := t.j, phase := t.phase }

/-- R46, R310 row 6, R60: the engine's read of a byte nothing has written stops, and so does every access to an address outside a
space. The named faults are the model's treatment, log entries 3, 9 and 21. -/
def Obligations.UnwrittenOrAbsentCellStops : Prop :=
  (∀ s : State, s.copyAddr < s.par.msgCap → s.peek .msg s.copyAddr = none →
    exec .padCopy s = .fault (.unwrittenByte .msg s.copyAddr)) ∧
  (∀ (s : State) (sp : Space) (a : Nat) (b : Byte), Params.size s.par sp ≤ a →
    s.readByte sp a = .error (.noSuchAddress sp a) ∧ s.writeByte sp a b = .error (.noSuchAddress sp a))

/-! ## The schedule micro-operations -/

/-- R176: `W[t]` is the big-endian word of the eight bytes at `128·i + 8·t`; every other word is unchanged, no memory is written. -/
def Obligations.WloadLoadsOneWord : Prop :=
  ∀ (s : State) (b0 b1 b2 b3 b4 b5 b6 b7 : Byte), s.t.toNat < 80 → s.wordAddr + 7 < s.par.padCap →
    s.holds .p s.wordAddr [b0, b1, b2, b3, b4, b5, b6, b7] →
    ∃ t w, exec .wload s = .next t ∧ t.W[s.t.toNat]? = some w ∧
      w.toNat = b0.toNat * 2 ^ 56 + b1.toNat * 2 ^ 48 + b2.toNat * 2 ^ 40 + b3.toNat * 2 ^ 32 + b4.toNat * 2 ^ 24 +
        b5.toNat * 2 ^ 16 + b6.toNat * 2 ^ 8 + b7.toNat ∧
      (∀ n, n ≠ s.t.toNat → t.W[n]? = s.W[n]?) ∧
      (s.t = 15 → t.t = 16 ∧ t.phase = 7) ∧ (s.t ≠ 15 → t.t.toNat = s.t.toNat + 1 ∧ t.phase = s.phase) ∧
      t = { s with W := t.W, t := t.t, phase := t.phase }

/-- R177: `W[t] <- σ1(W[t-2]) + W[t-7] + σ0(W[t-15]) + W[t-16]` modulo 2^64; every other word is unchanged. -/
def Obligations.WexpExpandsOneWord : Prop :=
  ∀ (s : State) (w2 w7 w15 w16 : Word), 16 ≤ s.t.toNat → s.t.toNat ≤ 79 →
    s.W[s.t.toNat - 2]? = some w2 → s.W[s.t.toNat - 7]? = some w7 →
    s.W[s.t.toNat - 15]? = some w15 → s.W[s.t.toNat - 16]? = some w16 →
    ∃ t w, exec .wexp s = .next t ∧ t.W[s.t.toNat]? = some w ∧
      w.toNat = ((sigma1 w2).toNat + w7.toNat + (sigma0 w15).toNat + w16.toNat) % 2 ^ 64 ∧
      (∀ n, n ≠ s.t.toNat → t.W[n]? = s.W[n]?) ∧
      (s.t = 79 → t.t = s.t ∧ t.phase = 8) ∧ (s.t ≠ 79 → t.t.toNat = s.t.toNat + 1 ∧ t.phase = s.phase) ∧
      t = { s with W := t.W, t := t.t, phase := t.phase }

/-! ## The compression micro-operations -/

/-- R195: the working registers are a copy of the accumulator, which keeps its words; round 0 follows. -/
def Obligations.LoadvCopiesTheAccumulator : Prop :=
  ∀ s : State, exec .loadv s = .next { s with
    v := ⟨s.H.h0, s.H.h1, s.H.h2, s.H.h3, s.H.h4, s.H.h5, s.H.h6, s.H.h7⟩
    t := 0
    phase := 9 }

/-- R194, R196: one round with `K[t]` and `W[t]`, every right-hand side of before the round and every sum modulo 2^64; `H`, `W` and
the memories are unchanged. -/
def Obligations.RoundUpdatesTheWorkingRegisters : Prop :=
  ∀ (s : State) (kt wt : Word), kTable[s.t.toNat]? = some kt → s.W[s.t.toNat]? = some wt →
    ∃ (t : State) (T1 T2 : Nat), exec .round s = .next t ∧
      T1 = (s.v.h.toNat + (bigSigma1 s.v.e).toNat + (ch s.v.e s.v.f s.v.g).toNat + kt.toNat + wt.toNat) % 2 ^ 64 ∧
      T2 = ((bigSigma0 s.v.a).toNat + (maj s.v.a s.v.b s.v.c).toNat) % 2 ^ 64 ∧
      t.v.a.toNat = (T1 + T2) % 2 ^ 64 ∧ t.v.b = s.v.a ∧ t.v.c = s.v.b ∧ t.v.d = s.v.c ∧
      t.v.e.toNat = (s.v.d.toNat + T1) % 2 ^ 64 ∧ t.v.f = s.v.e ∧ t.v.g = s.v.f ∧ t.v.h = s.v.g ∧
      (s.t = 79 → t.t = s.t ∧ t.phase = 10) ∧ (s.t ≠ 79 → t.t.toNat = s.t.toNat + 1 ∧ t.phase = s.phase) ∧
      t = { s with v := t.v, t := t.t, phase := t.phase }

/-- R198: each accumulator word is incremented modulo 2^64 by its working register; then the next block or the digest. -/
def Obligations.FeedAddsTheWorkingRegisters : Prop :=
  ∀ s : State, ∃ t, exec .feed s = .next t ∧
    t.H.h0.toNat = (s.H.h0.toNat + s.v.a.toNat) % 2 ^ 64 ∧ t.H.h1.toNat = (s.H.h1.toNat + s.v.b.toNat) % 2 ^ 64 ∧
    t.H.h2.toNat = (s.H.h2.toNat + s.v.c.toNat) % 2 ^ 64 ∧ t.H.h3.toNat = (s.H.h3.toNat + s.v.d.toNat) % 2 ^ 64 ∧
    t.H.h4.toNat = (s.H.h4.toNat + s.v.e.toNat) % 2 ^ 64 ∧ t.H.h5.toNat = (s.H.h5.toNat + s.v.f.toNat) % 2 ^ 64 ∧
    t.H.h6.toNat = (s.H.h6.toNat + s.v.g.toNat) % 2 ^ 64 ∧ t.H.h7.toNat = (s.H.h7.toNat + s.v.h.toNat) % 2 ^ 64 ∧
    (s.i + 1 < s.N → t.i = s.i + 1 ∧ t.t = 0 ∧ t.phase = 6) ∧
    (s.N ≤ s.i + 1 → t.i = s.i ∧ t.t = s.t ∧ t.phase = 11) ∧
    t = { s with H := t.H, i := t.i, t := t.t, phase := t.phase }

/-- R221, R222: FINALIZE always completes: `DIG[16·n + d]` is the character of digit `d` of `H[n]`, the most significant first, the
phase is DONE, and nothing else changes. -/
def Obligations.FinalizeWritesTheDigest : Prop :=
  ∀ s : State, ∃ t, exec .finalize s = .next t ∧ t.phase = 12 ∧
    (∀ (n d : Nat) (x : Word), d < 16 → s.H.words[n]? = some x →
      t.peek .dig (16 * n + d) = some (if (x.extractLsb' (60 - 4 * d) 4).toNat ≤ 9
        then BitVec.ofNat 8 (0x30 + (x.extractLsb' (60 - 4 * d) 4).toNat)
        else BitVec.ofNat 8 (0x61 + ((x.extractLsb' (60 - 4 * d) 4).toNat - 10)))) ∧
    (∀ a, 128 ≤ a → t.peek .dig a = s.peek .dig a) ∧
    t = { s with dig := t.dig, phase := t.phase }

/-- R235: in a quiescent phase the engine's step changes nothing. That the engine takes such a step at all is the model's
reading, log entry 12. -/
def Obligations.QuiescentPhasesHold : Prop :=
  ∀ s : State, exec .holdIdle s = .next s ∧ exec .holdDone s = .next s ∧ exec .holdError s = .next s ∧
    (isQuiescent s.phase = true → s.agenda = [] → step s = .next s)

/-- R96, 93 U6: a phase 14 or 15 has no engine step and accepts no command. The named fault is the model's treatment, log
entry 8. -/
def Obligations.ReservedPhaseIsStuck : Prop :=
  ∀ s : State, 14 ≤ s.phase.toNat →
    engineTurn s = .fault (.reservedPhase s.phase) ∧
    ∀ c, hostTurn (.writeCmd c) s = .fault (.reservedPhase s.phase)

/-! ## Status, reset -/

/-- R29: the fields of `STATUS`, that at most one of the three flags is set and none exactly in IDLE, and that a read has no effect
on the engine. -/
def Obligations.StatusLayout : Prop :=
  (∀ s : State,
    (statusWord s).extractLsb' 0 4 = s.phase ∧
    ((statusWord s).getLsbD 4 = true ↔ 1 ≤ s.phase.toNat ∧ s.phase.toNat ≤ 11) ∧
    ((statusWord s).getLsbD 5 = true ↔ s.phase = 12) ∧
    ((statusWord s).getLsbD 6 = true ↔ s.phase = 13) ∧
    (statusWord s).extractLsb' 7 1 = s.op ∧
    (statusWord s).extractLsb' 8 3 = s.err ∧
    (statusWord s).extractLsb' 11 5 = 0 ∧
    hostTurn .readStatus s = .next { s with readings := .status (statusWord s) :: s.readings }) ∧
  (∀ s : State, s.phase.toNat ≤ 13 →
    (((statusWord s).getLsbD 4 = false ∧ (statusWord s).getLsbD 5 = false ∧ (statusWord s).getLsbD 6 = false) ↔
      s.phase = 0) ∧
    ((statusWord s).getLsbD 4 && (statusWord s).getLsbD 5) = false ∧
    ((statusWord s).getLsbD 4 && (statusWord s).getLsbD 6) = false ∧
    ((statusWord s).getLsbD 5 && (statusWord s).getLsbD 6) = false)

/-- R45: after reset `phase` is IDLE, `ERR` is 0, `STATUS` reads `0x0000`, no byte of memory is written, and the engine takes no step
until a command is accepted. That `op` reads 0 is the model's choice, log entry 2. -/
def Obligations.ResetIsIdle : Prop :=
  State.reset.phase = 0 ∧ State.reset.err = 0 ∧ statusWord State.reset = 0x0000#16 ∧
  (∀ (sp : Space) (a : Nat), State.reset.peek sp a = none) ∧
  ∀ n, run n State.reset = .next State.reset

/-- R300: reset, in any phase, leaves the engine idle with no error, keeps the parameters, and nothing of an abandoned operation
can be read afterwards. Two things are the model's choice: a read of a port whose value is unspecified (R40) is answered with a free
value, log entry 6, and the host's agenda and readings stay, log entry 11. -/
def Obligations.ResetEventAbandonsTheOperation : Prop :=
  ∀ (s : State) (rest : List Turn), s.agenda = .reset :: rest →
    ∃ t, step s = .next t ∧ t.phase = 0 ∧ t.err = 0 ∧ t.par = s.par ∧ t.agenda = rest ∧ t.readings = s.readings ∧
      t.resultsUnreadable ∧
      (∀ a, a < t.par.msgCap → t.readsUnspecified (.readMsg a) (.msg a (Config.unspecifiedByte t.unspecifiedReads))) ∧
      t.readsUnspecified .readMsgLen (.msgLen (Config.unspecifiedNumber t.unspecifiedReads))

/-! ## The invariant -/

/-- The invariant holds right after reset, for every capacity. -/
def Obligations.ResetHasTheInvariant : Prop :=
  State.Inv State.reset ∧ ∀ par : Params, State.Inv (State.resetWith par)

/-- R27, R28, R60, R61, R262: every step of every agent keeps the invariant: canonical memories inside their spaces, one of the
fourteen phase codes, `ERR` set exactly in ERROR and never 2, every counter inside its bound and every byte written before the phase
that reads it. -/
def Obligations.StepKeepsTheInvariant : Prop :=
  ∀ s t : State, State.Inv s → step s = .next t → State.Inv t

/-- R61, R96, R237: from every state of the invariant the engine's turn has a next state, but for the one case of a Message byte the
host never wrote (R310 row 6): no access out of bounds, no missing element, no reserved phase. The
named fault is the model's treatment, log entry 3. -/
def Obligations.EngineStopsOnlyOnUnwrittenMessage : Prop :=
  ∀ s : State, State.Inv s → s.nextCode = some (.phase s.phase) →
    (∃ t, step s = .next t) ∨
    (s.phase = 2 ∧ s.j < s.L ∧ s.peek .msg s.j = none ∧ step s = .fault (.unwrittenByte .msg s.j))

/-! ## Rules about the whole machine -/

/-- R20, R22, R223, R41: each element is written only by the instructions the state inventory names; the Message, its length and the
host's side are written by none. -/
def Obligations.OnlyNamedWritersWrite : Prop :=
  ∀ (i : Instr) (s t : State), exec i s = .next t →
    (t.v ≠ s.v → i = .loadv ∨ i = .round) ∧
    (t.H ≠ s.H → i = .init ∨ i = .feed) ∧
    (t.W ≠ s.W → i = .wload ∨ i = .wexp) ∧
    (t.p ≠ s.p → i = .padCopy ∨ i = .padMark ∨ i = .padZero ∨ i = .padLen) ∧
    (t.plen ≠ s.plen → i = .init ∨ i = .padLen) ∧
    (t.dig ≠ s.dig → i = .finalize) ∧
    (t.op ≠ s.op → i = .digest ∨ i = .padded) ∧
    (t.err ≠ s.err → i = .digest ∨ i = .padded ∨ i = .init) ∧
    (t.L ≠ s.L → i = .init) ∧
    (t.k ≠ s.k → i = .padMark) ∧
    (t.j ≠ s.j → i = .init ∨ i = .padCopy ∨ i = .padMark ∨ i = .padZero ∨ i = .padLen) ∧
    (t.N ≠ s.N → i = .padLen) ∧
    (t.i ≠ s.i → i = .padLen ∨ i = .feed) ∧
    (t.t ≠ s.t → i = .padLen ∨ i = .wload ∨ i = .wexp ∨ i = .loadv ∨ i = .round ∨ i = .feed) ∧
    t.msg = s.msg ∧ t.msgLen = s.msgLen ∧ t.par = s.par ∧ t.msgLenWritten = s.msgLenWritten ∧
    t.agenda = s.agenda ∧ t.readings = s.readings ∧ t.unspecifiedReads = s.unspecifiedReads

/-- R234: the engine moves between phases only along the rows of the transition table; ERROR is entered by INIT alone (R264). -/
def Obligations.EngineFollowsTheTransitionTable : Prop :=
  ∀ s t : State, engineTurn s = .next t → (s.phase, t.phase) ∈ engineTransitions

/-- R238: the path depends on the Message only through its length: two runs that agree on the control state, whatever their Message
bytes, schedule and hash words, agree on it after any number of steps. -/
def Obligations.PathDependsOnLengthOnly : Prop :=
  ∀ (n : Nat) (s u s' u' : State), s.agenda = [] → u.agenda = [] → s.sameControl u →
    run n s = .next s' → run n u = .next u' → s'.sameControl u'

/-! ## Host ports -/

/-- R40: a port read gives the host one value and touches nothing else of the machine. Inside the port's window that is the value the
port stands for: `STATUS`, the last value of `MSG_LEN`, `PLEN`, or the byte the cell holds. -/
def Obligations.PortReadsHaveNoSideEffect : Prop :=
  ∀ (s t : State) (m : HostMove) (rest : List Turn), s.agenda = .host m :: rest → HostMove.isRead m = true →
    step s = .next t → ∃ r,
      t = { s with agenda := rest, readings := r :: s.readings, unspecifiedReads := t.unspecifiedReads } ∧
      (m = .readStatus → r = .status (statusWord s)) ∧
      (m = .readMsgLen → s.msgLenWritten = true → r = .msgLen s.msgLen) ∧
      (m = .readPlen → s.phase = 12 → r = .plen s.plen) ∧
      (∀ a b, m = .readMsg a → s.peek .msg a = some b → r = .msg a b) ∧
      (∀ a b, m = .readP a → s.phase = 12 → a < s.plen → s.peek .p a = some b → r = .p a b) ∧
      (∀ a b, m = .readDig a → s.phase = 12 → s.op = 0 → s.peek .dig a = some b → r = .dig a b)

/-- The host's read of every port and of every address that exists is answered, in every phase. Inside its window that is R40's; that a
read outside it is answered at all, with a free value, is the model's choice, log entry 6, where R40 and U3 advise a model to refuse
it. -/
def Obligations.PortReadsAreAlwaysAnswered : Prop :=
  ∀ (s : State) (a : Nat),
    (∃ t, hostTurn .readStatus s = .next t) ∧ (∃ t, hostTurn .readMsgLen s = .next t) ∧
    (∃ t, hostTurn .readPlen s = .next t) ∧
    (a < s.par.msgCap → ∃ t, hostTurn (.readMsg a) s = .next t) ∧
    (a < s.par.padCap → ∃ t, hostTurn (.readP a) s = .next t) ∧
    (a < 128 → ∃ t, hostTurn (.readDig a) s = .next t)

/-- The model's choice for the reads that R40 calls unspecified, log entry 6: outside DONE a read of `P`, `PLEN` or `DIG` gives an
unspecified value, and so does one of `DIG` after PADDED, of `P` at or past `PLEN`, and of a Message byte or length the host has not
written. The value is free. There is no `DIG[a]` from 128 on, no `P[a]` from `PAD_CAP` on and no `MSG[a]` from `MSG_CAP` on, so that
accesses there stop (log entry 21). -/
def Obligations.ReadsOutsideTheWindowAreUnspecified : Prop :=
  ∀ (s : State) (a : Nat),
    (s.phase ≠ 12 → s.resultsUnreadable) ∧
    (s.op = 1 → a < 128 → s.readsUnspecified (.readDig a) (.dig a (Config.unspecifiedByte s.unspecifiedReads))) ∧
    (s.plen ≤ a → a < s.par.padCap →
      s.readsUnspecified (.readP a) (.p a (Config.unspecifiedByte s.unspecifiedReads))) ∧
    (s.peek .msg a = none → a < s.par.msgCap →
      s.readsUnspecified (.readMsg a) (.msg a (Config.unspecifiedByte s.unspecifiedReads))) ∧
    (s.msgLenWritten = false →
      s.readsUnspecified .readMsgLen (.msgLen (Config.unspecifiedNumber s.unspecifiedReads))) ∧
    (128 ≤ a → hostTurn (.readDig a) s = .fault (.noSuchAddress .dig a)) ∧
    (s.par.padCap ≤ a → hostTurn (.readP a) s = .fault (.noSuchAddress .p a)) ∧
    (s.par.msgCap ≤ a → hostTurn (.readMsg a) s = .fault (.noSuchAddress .msg a) ∧
      ∀ b, hostTurn (.writeMsg a b) s = .fault (.noSuchAddress .msg a))

/-- R40: in DONE the results are readable: every byte of `P` below `PLEN`, `PLEN` itself, and after DIGEST all of `DIG`. -/
def Obligations.ResultsAreReadableWhenDone : Prop :=
  ∀ s : State, State.Inv s → s.phase = 12 →
    (∀ a, a < s.plen → ∃ b, s.peek .p a = some b ∧
      hostTurn (.readP a) s = .next { s with readings := .p a b :: s.readings }) ∧
    hostTurn .readPlen s = .next { s with readings := .plen s.plen :: s.readings } ∧
    (s.op = 0 → ∀ a, a < 128 → ∃ b, s.peek .dig a = some b ∧
      hostTurn (.readDig a) s = .next { s with readings := .dig a b :: s.readings })

/-- R30, R40, R41: when the engine is quiescent the host writes a Message byte of any address the memory has, and the length, for every
capacity; nothing else changes and a read gives back what was written. While the engine is busy the model
refuses such a move, log entry 7. -/
def Obligations.HostWritesMessageWhenQuiescent : Prop :=
  ∀ s : State,
    (isQuiescent s.phase = true → ∀ (a : Nat) (b : Byte), a < s.par.msgCap →
      ∃ t, hostTurn (.writeMsg a b) s = .next t ∧ t.peek .msg a = some b ∧
        (∀ x, x ≠ a → t.peek .msg x = s.peek .msg x) ∧ t = { s with msg := t.msg } ∧
        hostTurn (.readMsg a) t = .next { t with readings := .msg a b :: t.readings }) ∧
    (isQuiescent s.phase = true → ∀ n : Nat,
      ∃ t, hostTurn (.writeMsgLen n) s = .next t ∧ t = { s with msgLen := n, msgLenWritten := true } ∧
        hostTurn .readMsgLen t = .next { t with readings := .msgLen n :: t.readings }) ∧
    (isBusy s.phase = true →
      (∀ (a : Nat) (b : Byte), a < s.par.msgCap →
        hostTurn (.writeMsg a b) s = .refused (.portWriteOutsideWindow .msg)) ∧
      ∀ n : Nat, hostTurn (.writeMsgLen n) s = .refused (.portWriteOutsideWindow .msgLen))

/-- R40: in every phase, a busy one included, a Message byte that has been written and a length that has been written are readable. -/
def Obligations.MessageIsReadableInEveryPhase : Prop :=
  ∀ s : State,
    (s.msgLenWritten = true → hostTurn .readMsgLen s = .next { s with readings := .msgLen s.msgLen :: s.readings }) ∧
    ∀ (a : Nat) (b : Byte), a < s.par.msgCap → s.peek .msg a = some b →
      hostTurn (.readMsg a) s = .next { s with readings := .msg a b :: s.readings }

/-- R40, R41: a byte of the Message or its length keeps the last value the host wrote: a step that changes it is a host write of the new
value, or reset. -/
def Obligations.MessageKeepsTheLastValueWritten : Prop :=
  ∀ s t : State, step s = .next t →
    (∀ a, t.peek .msg a ≠ s.peek .msg a →
      (∃ b rest, s.agenda = .host (.writeMsg a b) :: rest ∧ t.peek .msg a = some b) ∨ ∃ rest, s.agenda = .reset :: rest) ∧
    (t.msgLen ≠ s.msgLen →
      (∃ n rest, s.agenda = .host (.writeMsgLen n) :: rest ∧ t.msgLen = n) ∨ ∃ rest, s.agenda = .reset :: rest) ∧
    (t.msgLenWritten ≠ s.msgLenWritten →
      (∃ n rest, s.agenda = .host (.writeMsgLen n) :: rest ∧ t.msgLenWritten = true) ∨ ∃ rest, s.agenda = .reset :: rest)

/-- R98: `WAIT` ends at a poll that finds DONE or ERROR, giving the host that `STATUS`; until then it stands and the engine takes its
steps. That a poll that finds neither is followed by one engine step is the model's choice, log entry 17. -/
def Obligations.WaitPollsUntilDoneOrError : Prop :=
  ∀ (s : State) (rest : List Turn), s.agenda = .wait :: rest →
    ((s.phase = 12 ∨ s.phase = 13) →
      step s = .next { s with agenda := rest, readings := .status (statusWord s) :: s.readings }) ∧
    (s.phase ≠ 12 → s.phase ≠ 13 → step s = engineTurn s)

/-! ## The functions -/

/-- R170, R171: rotation and shift by numbers and by bits, for every amount the rules define. -/
def Obligations.RotateAndShift : Prop :=
  ∀ (x : Word) (n : Nat), 0 < n → n < 64 →
    (rotr x n).toNat = x.toNat / 2 ^ n + x.toNat % 2 ^ n * 2 ^ (64 - n) ∧
    (∀ b, b < 64 → (rotr x n).getLsbD b = x.getLsbD ((b + n) % 64)) ∧
    (shr x n).toNat = x.toNat / 2 ^ n ∧
    (∀ b, b < 64 → (shr x n).getLsbD b = if b + n ≤ 63 then x.getLsbD (b + n) else false)

/-- R172, R173, R190, R191: the four mixing functions bit by bit, and the rules' worked examples. -/
def Obligations.MixingFunctionsBitByBit : Prop :=
  (∀ (x : Word) (b : Nat), b < 64 →
    (sigma0 x).getLsbD b =
      ((x.getLsbD ((b + 1) % 64) ^^ x.getLsbD ((b + 8) % 64)) ^^ (decide (b + 7 ≤ 63) && x.getLsbD (b + 7))) ∧
    (sigma1 x).getLsbD b =
      ((x.getLsbD ((b + 19) % 64) ^^ x.getLsbD ((b + 61) % 64)) ^^ (decide (b + 6 ≤ 63) && x.getLsbD (b + 6))) ∧
    (bigSigma0 x).getLsbD b =
      ((x.getLsbD ((b + 28) % 64) ^^ x.getLsbD ((b + 34) % 64)) ^^ x.getLsbD ((b + 39) % 64)) ∧
    (bigSigma1 x).getLsbD b =
      ((x.getLsbD ((b + 14) % 64) ^^ x.getLsbD ((b + 18) % 64)) ^^ x.getLsbD ((b + 41) % 64))) ∧
  sigma0 1 = 0x8100000000000000#64 ∧ sigma1 1 = 0x0000200000000008#64 ∧
  bigSigma0 1 = 0x0000001042000000#64 ∧ bigSigma1 1 = 0x0004400000800000#64

/-- R192, R193: the formulas of `Ch` and `Maj`, that `Ch` chooses by the bit of `e` and `Maj` is the majority, bit by bit, and the
rules' worked examples. -/
def Obligations.ChooseAndMajority : Prop :=
  (∀ x y z : Word, ch x y z = (x &&& y) ^^^ (~~~x &&& z) ∧
    maj x y z = (x &&& y) ^^^ (x &&& z) ^^^ (y &&& z)) ∧
  (∀ (x y z : Word) (b : Nat), b < 64 →
    (ch x y z).getLsbD b = (if x.getLsbD b then y.getLsbD b else z.getLsbD b) ∧
    (maj x y z).getLsbD b =
      decide (2 ≤ (x.getLsbD b).toNat + (y.getLsbD b).toNat + (z.getLsbD b).toNat)) ∧
  ch 0xffff0000ffff0000 0x1234567890abcdef 0xfedcba0987654321 = 0x1234ba0990ab4321#64 ∧
  maj 0xffff0000ffff0000 0x1234567890abcdef 0xfedcba0987654321 = 0xfefc120897ef4121#64

/-- R10, R62: `be64` is the big-endian value of eight bytes, and `bytes_be64` is its inverse. -/
def Obligations.BigEndianWords : Prop :=
  (∀ b0 b1 b2 b3 b4 b5 b6 b7 : Byte,
    (be64 [b0, b1, b2, b3, b4, b5, b6, b7]).toNat = b0.toNat * 2 ^ 56 + b1.toNat * 2 ^ 48 + b2.toNat * 2 ^ 40 +
      b3.toNat * 2 ^ 32 + b4.toNat * 2 ^ 24 + b5.toNat * 2 ^ 16 + b6.toNat * 2 ^ 8 + b7.toNat ∧
    bytesBe64 (be64 [b0, b1, b2, b3, b4, b5, b6, b7]) = [b0, b1, b2, b3, b4, b5, b6, b7]) ∧
  (∀ x : Word, be64 (bytesBe64 x) = x)

/-- R121, R122, R123: the tables are the first 64 bits of the fractional parts of the square roots of the first 8 primes and of the
cube roots of the first 80, which are the primes below 410: `c·2^64 + entry` is the floor of the scaled root, `c` its integer part. -/
def Obligations.TablesAreRootFractions : Prop :=
  kTable.length = 80 ∧ ((List.range 410).filter fun q => decide (Nat.Prime q)).length = 80 ∧
  (∀ n, n < 8 → ∃ q c x, ((List.range 410).filter fun q => decide (Nat.Prime q))[n]? = some q ∧
    ivTable.words[n]? = some x ∧
    (c * 2 ^ 64 + x.toNat) ^ 2 ≤ q * 2 ^ 128 ∧ q * 2 ^ 128 < (c * 2 ^ 64 + x.toNat + 1) ^ 2) ∧
  (∀ n, n < 80 → ∃ q c x, ((List.range 410).filter fun q => decide (Nat.Prime q))[n]? = some q ∧
    kTable[n]? = some x ∧
    (c * 2 ^ 64 + x.toNat) ^ 3 ≤ q * 2 ^ 192 ∧ q * 2 ^ 192 < (c * 2 ^ 64 + x.toNat + 1) ^ 3)

/-- R142: the equal forms of `k` and its range. -/
def Obligations.ZeroCountForms : Prop :=
  (∀ L : Nat, (padZeros L : Int) = (111 - (L : Int)) % 128 ∧
    (L % 128 ≤ 111 → padZeros L = 111 - L % 128) ∧ (112 ≤ L % 128 → padZeros L = 239 - L % 128) ∧
    (L % 128 = 111 → padZeros L = 0) ∧ (L % 128 = 0 → padZeros L = 111) ∧
    (L % 128 = 112 → padZeros L = 127) ∧ (L % 128 = 127 → padZeros L = 112)) ∧
  ∀ v, v < 128 → ∃ L, padZeros L = v

/-- R143: the length of the padded Message. -/
def Obligations.PaddedLengthIsWholeBlocks : Prop :=
  ∀ M : List Byte, ∃ N,
    (pad M).length = M.length + 17 + padZeros M.length ∧ (pad M).length = 128 * N ∧ 1 ≤ N ∧
    (M.length % 128 ≤ 111 → N = M.length / 128 + 1) ∧ (112 ≤ M.length % 128 → N = M.length / 128 + 2) ∧
    N = (M.length + 17 + 127) / 128 ∧
    (pad M).length % 128 = 0 ∧ M.length + 17 ≤ (pad M).length ∧
    ((pad M).length = M.length + 17 ↔ padZeros M.length = 0) ∧
    M.length + 1 + padZeros M.length = 128 * N - 16 ∧ (128 * N - 16) % 128 = 112

/-- R140, R141, R146: the padded Message is whole blocks, its length field starts at an offset congruent to 112, and each byte is: the
Message, the marker, zeros, eight zero bytes, and the eight bytes of `(L · 8) mod 2^64`, big-endian. -/
def Obligations.PaddedMessageLayout : Prop :=
  ∀ M : List Byte, (pad M).length % 128 = 0 ∧ 16 ≤ (pad M).length ∧ ((pad M).length - 16) % 128 = 112 ∧
    M.length < (pad M).length - 16 ∧
    ∀ n, n < (pad M).length → ∃ b, (pad M)[n]? = some b ∧
      (n < M.length → M[n]? = some b) ∧
      (n = M.length → b = 0x80#8) ∧
      (M.length < n → n + 8 < (pad M).length → b = 0x00#8) ∧
      ((pad M).length ≤ n + 8 → b.toNat = M.length * 8 % 2 ^ 64 / 2 ^ (8 * ((pad M).length - 1 - n)) % 256)

/-- R65: the 128-byte blocks of a padded Message, concatenated, are the padded Message. -/
def Obligations.BlocksReassemble : Prop :=
  ∀ M : List Byte, (blocks (pad M)).flatten = pad M ∧ ∀ B ∈ blocks (pad M), B.length = 128

/-- R220, R221: the digest has 128 characters, `DIG[16·n + d]` the one of the digit `x[63 − 4d : 60 − 4d]` of `H[n]`, and two different
states have different digests. -/
def Obligations.HexDigestDigits : Prop :=
  (∀ H : HashState, (hexdigest H).length = 128 ∧
    ∀ (n d : Nat) (x : Word), d < 16 → H.words[n]? = some x →
      (hexdigest H)[16 * n + d]? = some (hexchar (x.extractLsb' (60 - 4 * d) 4))) ∧
  (∀ x : BitVec 4, (hexchar x).toNat = if x.toNat ≤ 9 then 0x30 + x.toNat else 0x61 + (x.toNat - 10)) ∧
  ∀ H H' : HashState, hexdigest H = hexdigest H' → H = H'

/-- R174: the schedule of a 128-byte block. -/
def Obligations.ScheduleRecurrence : Prop :=
  ∀ B : List Byte, B.length = 128 → (sched B).length = 80 ∧
    (∀ t, t < 16 → (sched B)[t]? = some (be64 ((B.drop (8 * t)).take 8))) ∧
    ∀ t, 16 ≤ t → t < 80 → ∃ w w2 w7 w15 w16, (sched B)[t]? = some w ∧ (sched B)[t - 2]? = some w2 ∧
      (sched B)[t - 7]? = some w7 ∧ (sched B)[t - 15]? = some w15 ∧ (sched B)[t - 16]? = some w16 ∧
      w.toNat = ((sigma1 w2).toNat + w7.toNat + (sigma0 w15).toNat + w16.toNat) % 2 ^ 64

/-- R199, R200: the block function is eighty rounds from a copy of the state and the feed-forward, and the chain threads it through
the blocks in order. -/
def Obligations.CompressionAndChain : Prop :=
  (∀ (Hin : HashState) (B : List Byte), ∃ v : Nat → Working, v 0 = Hin.toWorking ∧
    (∀ t, t < 80 → ∃ kt wt, kTable[t]? = some kt ∧ (sched B)[t]? = some wt ∧ v (t + 1) = roundFn (v t) kt wt) ∧
    compress Hin B = feedForward Hin (v 80)) ∧
  ∀ P : List Byte, ∃ H : Nat → HashState, H 0 = ivTable ∧
    (∀ i, i < P.length / 128 → H (i + 1) = compress (H i) ((P.drop (128 * i)).take 128)) ∧
    chain P = H (P.length / 128)

/-! ## Operations -/

/-- R154: the padding stage computes `pad`: INIT and the `PLEN` padding steps leave `P[0 .. PLEN) = pad(M)`, the Message unchanged,
for every capacity that holds the Message and whatever the state held before. -/
def Obligations.PaddingStageComputesPad : Prop :=
  ∀ (s : State) (M : List Byte), s.agenda = [] → s.phase = 1 → s.msgLen = M.length → M.length ≤ s.par.msgCap →
    s.holds .msg 0 M →
    ∃ t, run (1 + (pad M).length) s = .next t ∧ t.holds .p 0 (pad M) ∧ t.plen = (pad M).length ∧
      t.N = (pad M).length / 128 ∧ t.i = 0 ∧ t.t = 0 ∧ t.H = ivTable ∧ t.msg = s.msg ∧ t.dig = s.dig ∧
      t.op = s.op ∧ t.err = s.err ∧ t.phase = if s.op = 1 then 12 else 6

/-- R178: the sixteen WLOAD and the sixty-four WEXP steps of a block leave `W[0..79] = sched(block)`, whatever `W` held before (R23,
R46), and change nothing else but `t` and `phase`. -/
def Obligations.ScheduleStageComputesSched : Prop :=
  ∀ (s : State) (B : List Byte), s.agenda = [] → s.phase = 6 → s.t = 0 → B.length = 128 →
    128 * s.i + 128 ≤ s.par.padCap → s.holds .p (128 * s.i) B →
    ∃ t, run 80 s = .next t ∧ t.W.toList = sched B ∧ t.phase = 8 ∧ t = { s with W := t.W, t := t.t, phase := t.phase }

/-- R199: the 162 steps of one block leave `H = compress(H, block)`, whatever `v` and `W` held before, and no memory changes. -/
def Obligations.BlockStepsComputeCompress : Prop :=
  ∀ (s : State) (B : List Byte), s.agenda = [] → s.phase = 6 → s.t = 0 → B.length = 128 →
    128 * s.i + 128 ≤ s.par.padCap → s.holds .p (128 * s.i) B →
    ∃ t, run 162 s = .next t ∧ t.H = compress s.H B ∧
      (s.i + 1 < s.N → t.phase = 6 ∧ t.i = s.i + 1 ∧ t.t = 0) ∧ (s.N ≤ s.i + 1 → t.phase = 11 ∧ t.i = s.i) ∧
      t = { s with v := t.v, H := t.H, W := t.W, i := t.i, t := t.t, phase := t.phase }

/-- R230, R236: a DIGEST, from any quiescent state, of any Message the memory holds: after acceptance and `PLEN + 162·N + 2` engine
steps the phase is DONE, `DIG` is the digest of the Message, `P` its padding, and the Message is unchanged. For `L ≥ 2^61` the length
field wraps (R146) and the digest is that of the wrapped padding. -/
def Obligations.DigestOperationComputesDigest : Prop :=
  ∀ (s : State) (M : List Byte), s.agenda = [.host (.writeCmd 0x01#8)] → isQuiescent s.phase = true →
    s.msgLen = M.length → M.length ≤ s.par.msgCap → s.holds .msg 0 M →
    ∃ t, run (1 + ((pad M).length + 162 * ((pad M).length / 128) + 2)) s = .next t ∧ t.phase = 12 ∧ t.op = 0 ∧
      t.err = 0 ∧ t.holds .dig 0 (digest M) ∧ t.holds .p 0 (pad M) ∧ t.plen = (pad M).length ∧
      t.msg = s.msg ∧ t.msgLen = s.msgLen ∧ t.agenda = [] ∧ t.readings = s.readings

/-- R231, R236: a PADDED, likewise: after acceptance and `PLEN + 1` engine steps `P` is the padding of the Message; `DIG` is not
touched. -/
def Obligations.PaddedOperationComputesPad : Prop :=
  ∀ (s : State) (M : List Byte), s.agenda = [.host (.writeCmd 0x02#8)] → isQuiescent s.phase = true →
    s.msgLen = M.length → M.length ≤ s.par.msgCap → s.holds .msg 0 M →
    ∃ t, run (1 + ((pad M).length + 1)) s = .next t ∧ t.phase = 12 ∧ t.op = 1 ∧ t.err = 0 ∧
      t.holds .p 0 (pad M) ∧ t.plen = (pad M).length ∧ t.dig = s.dig ∧ t.msg = s.msg ∧ t.msgLen = s.msgLen ∧
      t.agenda = [] ∧ t.readings = s.readings

/-- R230, R236, R237: `STATUS.BUSY` is 1 at every step from acceptance to the last engine step of an operation: the counts of R236 are
exact, and both operations end. -/
def Obligations.OperationIsBusyUntilItEnds : Prop :=
  ∀ (s : State) (M : List Byte) (c : BitVec 8) (m : Nat), s.agenda = [.host (.writeCmd c)] →
    isQuiescent s.phase = true → s.msgLen = M.length → M.length ≤ s.par.msgCap → s.holds .msg 0 M → 1 ≤ m →
    (c = 0x01#8 → m < 1 + digestSteps M.length → ∃ t, run m s = .next t ∧ (statusWord t).getLsbD 4 = true) ∧
    (c = 0x02#8 → m < 1 + paddedSteps M.length → ∃ t, run m s = .next t ∧ (statusWord t).getLsbD 4 = true)

/-- R125, R240, R301: no state of an earlier operation reaches a digest: two machines that hold the same Message, whatever else they
hold and whatever operation they ran before, give the same `DIG` for a DIGEST. -/
def Obligations.DigestIsStateless : Prop :=
  ∀ (s u : State), s.agenda = [.host (.writeCmd 0x01#8)] → u.agenda = [.host (.writeCmd 0x01#8)] →
    isQuiescent s.phase = true → isQuiescent u.phase = true →
    s.msgLen = u.msgLen → s.msgLen ≤ s.par.msgCap → u.msgLen ≤ u.par.msgCap → s.written .msg s.msgLen →
    (∀ a, a < s.msgLen → s.peek .msg a = u.peek .msg a) →
    ∃ s' u', run (1 + digestSteps s.msgLen) s = .next s' ∧ run (1 + digestSteps u.msgLen) u = .next u' ∧
      s'.phase = 12 ∧ u'.phase = 12 ∧ ∀ a, a < 128 → (s'.peek .dig a).isSome = true ∧ s'.peek .dig a = u'.peek .dig a

/-- R99: the pseudo-instruction `digest(M)`, run from any quiescent state, gives the host `STATUS` = `0x002c` and then the 128 characters
of the digest of `M`. One engine step after each busy poll is the model's choice, log entry 17, and so is that the engine takes none
between two lines, log entry 24. -/
def Obligations.DigestScriptReturnsDigest : Prop :=
  ∀ (s : State) (M : List Byte), s.agenda = scriptTurns (digestScript M) → isQuiescent s.phase = true →
    M.length ≤ s.par.msgCap →
    ∃ t, run (M.length + 2 + digestSteps M.length + 1 + 128) s = .next t ∧ t.agenda = [] ∧
      t.readings = ((List.range 128).map fun a => Reading.dig a ((digest M).getD a 0)).reverse ++
        [Reading.status 0x002c#16] ++ s.readings

/-- R99: the pseudo-instruction `paddedBytes(M)`, likewise, gives `STATUS` = `0x00ac`, then `PLEN` and the bytes of `pad(M)`. The
model's choices are the same, log entries 17 and 24. -/
def Obligations.PaddedScriptReturnsPadding : Prop :=
  ∀ (s : State) (M : List Byte), s.agenda = scriptTurns (paddedScript M) → isQuiescent s.phase = true →
    M.length ≤ s.par.msgCap →
    ∃ t, run (M.length + 2 + paddedSteps M.length + 1 + 1 + (pad M).length) s = .next t ∧ t.agenda = [] ∧
      t.readings = ((List.range (pad M).length).map fun a => Reading.p a ((pad M).getD a 0)).reverse ++
        [Reading.plen (pad M).length] ++ [Reading.status 0x00ac#16] ++ s.readings
end

