-- ==== Sys2Proof/Laws/Functions.lean ====
section
/-! SUPPORT. Lengths and ranges of the pure functions. -/

namespace Sys2Proof.Machine

@[simp] theorem bytesBe64_length (x : Word) : (bytesBe64 x).length = 8 := by simp [bytesBe64]

@[simp] theorem lengthField_length (L : Nat) : (lengthField L).length = 16 := by simp [lengthField]

@[simp] theorem hex16_length (x : Word) : (hex16 x).length = 16 := by simp [hex16]

@[simp] theorem hexdigest_length (H : HashState) : (hexdigest H).length = 128 := by
  simp [hexdigest, HashState.words]

@[simp] theorem kTable_length : kTable.length = 80 := by decide

/-- `k` fits its seven bits (R142). -/
theorem padZeros_lt (L : Nat) : padZeros L < 128 := by unfold padZeros; omega

@[simp] theorem padZeros_toNat (L : Nat) : (BitVec.ofNat 7 (padZeros L)).toNat = padZeros L := by
  have := padZeros_lt L
  simp only [BitVec.toNat_ofNat]
  omega

@[simp] theorem pad_length (M : List Byte) : (pad M).length = padLength M.length := by
  simp only [pad, padLength, List.length_append, List.length_cons, List.length_nil, List.length_replicate,
    lengthField_length]

/-- A padded Message fits the memory `P` of an engine whose `MSG` holds the Message (R7, R61). -/
theorem padLength_le_padCap {par : Params} {L : Nat} (h : L ≤ par.msgCap) : padLength L ≤ par.padCap := by
  unfold padLength padZeros Params.padCap
  omega

/-- An address of `MSG` is an address of `P` (R7). -/
theorem msgCap_lt_padCap (par : Params) : par.msgCap < par.padCap := by
  unfold Params.padCap
  omega

@[simp] theorem schedWords_length (B : List Byte) (n : Nat) : (schedWords B n).length = n := by
  induction n with
  | zero => rfl
  | succ n ih => simp [schedWords, ih]

@[simp] theorem sched_length (B : List Byte) : (sched B).length = 80 := schedWords_length B 80

end Sys2Proof.Machine
end

