-- ==== Sys2Proof/Laws/State.lean ====
section
/-! SUPPORT. The small lemmas of the state's named updates: what each field is after each update. -/

namespace Sys2Proof.Machine

@[simp] theorem State.raise_par (s : State) (e : ErrorName) : (s.raise e).par = s.par := rfl
@[simp] theorem State.raise_v (s : State) (e : ErrorName) : (s.raise e).v = s.v := rfl
@[simp] theorem State.raise_H (s : State) (e : ErrorName) : (s.raise e).H = s.H := rfl
@[simp] theorem State.raise_W (s : State) (e : ErrorName) : (s.raise e).W = s.W := rfl
@[simp] theorem State.raise_msg (s : State) (e : ErrorName) : (s.raise e).msg = s.msg := rfl
@[simp] theorem State.raise_msgLen (s : State) (e : ErrorName) : (s.raise e).msgLen = s.msgLen := rfl
@[simp] theorem State.raise_p (s : State) (e : ErrorName) : (s.raise e).p = s.p := rfl
@[simp] theorem State.raise_plen (s : State) (e : ErrorName) : (s.raise e).plen = s.plen := rfl
@[simp] theorem State.raise_dig (s : State) (e : ErrorName) : (s.raise e).dig = s.dig := rfl
@[simp] theorem State.raise_phase (s : State) (e : ErrorName) : (s.raise e).phase = Phase.error := rfl
@[simp] theorem State.raise_op (s : State) (e : ErrorName) : (s.raise e).op = s.op := rfl
@[simp] theorem State.raise_err (s : State) (e : ErrorName) : (s.raise e).err = errorCode e := rfl
@[simp] theorem State.raise_L (s : State) (e : ErrorName) : (s.raise e).L = s.L := rfl
@[simp] theorem State.raise_k (s : State) (e : ErrorName) : (s.raise e).k = s.k := rfl
@[simp] theorem State.raise_j (s : State) (e : ErrorName) : (s.raise e).j = s.j := rfl
@[simp] theorem State.raise_N (s : State) (e : ErrorName) : (s.raise e).N = s.N := rfl
@[simp] theorem State.raise_i (s : State) (e : ErrorName) : (s.raise e).i = s.i := rfl
@[simp] theorem State.raise_t (s : State) (e : ErrorName) : (s.raise e).t = s.t := rfl
@[simp] theorem State.raise_msgLenWritten (s : State) (e : ErrorName) : (s.raise e).msgLenWritten = s.msgLenWritten := rfl
@[simp] theorem State.raise_agenda (s : State) (e : ErrorName) : (s.raise e).agenda = s.agenda := rfl
@[simp] theorem State.raise_readings (s : State) (e : ErrorName) : (s.raise e).readings = s.readings := rfl
@[simp] theorem State.raise_unspecifiedReads (s : State) (e : ErrorName) : (s.raise e).unspecifiedReads = s.unspecifiedReads := rfl

@[simp] theorem State.clearError_par (s : State) : (s.clearError).par = s.par := rfl
@[simp] theorem State.clearError_v (s : State) : (s.clearError).v = s.v := rfl
@[simp] theorem State.clearError_H (s : State) : (s.clearError).H = s.H := rfl
@[simp] theorem State.clearError_W (s : State) : (s.clearError).W = s.W := rfl
@[simp] theorem State.clearError_msg (s : State) : (s.clearError).msg = s.msg := rfl
@[simp] theorem State.clearError_msgLen (s : State) : (s.clearError).msgLen = s.msgLen := rfl
@[simp] theorem State.clearError_p (s : State) : (s.clearError).p = s.p := rfl
@[simp] theorem State.clearError_plen (s : State) : (s.clearError).plen = s.plen := rfl
@[simp] theorem State.clearError_dig (s : State) : (s.clearError).dig = s.dig := rfl
@[simp] theorem State.clearError_phase (s : State) : (s.clearError).phase = s.phase := rfl
@[simp] theorem State.clearError_op (s : State) : (s.clearError).op = s.op := rfl
@[simp] theorem State.clearError_err (s : State) : (s.clearError).err = 0 := rfl
@[simp] theorem State.clearError_L (s : State) : (s.clearError).L = s.L := rfl
@[simp] theorem State.clearError_k (s : State) : (s.clearError).k = s.k := rfl
@[simp] theorem State.clearError_j (s : State) : (s.clearError).j = s.j := rfl
@[simp] theorem State.clearError_N (s : State) : (s.clearError).N = s.N := rfl
@[simp] theorem State.clearError_i (s : State) : (s.clearError).i = s.i := rfl
@[simp] theorem State.clearError_t (s : State) : (s.clearError).t = s.t := rfl
@[simp] theorem State.clearError_msgLenWritten (s : State) : (s.clearError).msgLenWritten = s.msgLenWritten := rfl
@[simp] theorem State.clearError_agenda (s : State) : (s.clearError).agenda = s.agenda := rfl
@[simp] theorem State.clearError_readings (s : State) : (s.clearError).readings = s.readings := rfl
@[simp] theorem State.clearError_unspecifiedReads (s : State) : (s.clearError).unspecifiedReads = s.unspecifiedReads := rfl

@[simp] theorem State.start_par (s : State) (op : BitVec 1) : (s.start op).par = s.par := rfl
@[simp] theorem State.start_v (s : State) (op : BitVec 1) : (s.start op).v = s.v := rfl
@[simp] theorem State.start_H (s : State) (op : BitVec 1) : (s.start op).H = s.H := rfl
@[simp] theorem State.start_W (s : State) (op : BitVec 1) : (s.start op).W = s.W := rfl
@[simp] theorem State.start_msg (s : State) (op : BitVec 1) : (s.start op).msg = s.msg := rfl
@[simp] theorem State.start_msgLen (s : State) (op : BitVec 1) : (s.start op).msgLen = s.msgLen := rfl
@[simp] theorem State.start_p (s : State) (op : BitVec 1) : (s.start op).p = s.p := rfl
@[simp] theorem State.start_plen (s : State) (op : BitVec 1) : (s.start op).plen = s.plen := rfl
@[simp] theorem State.start_dig (s : State) (op : BitVec 1) : (s.start op).dig = s.dig := rfl
@[simp] theorem State.start_phase (s : State) (op : BitVec 1) : (s.start op).phase = Phase.init := rfl
@[simp] theorem State.start_op (s : State) (op : BitVec 1) : (s.start op).op = op := rfl
@[simp] theorem State.start_err (s : State) (op : BitVec 1) : (s.start op).err = 0 := rfl
@[simp] theorem State.start_L (s : State) (op : BitVec 1) : (s.start op).L = s.L := rfl
@[simp] theorem State.start_k (s : State) (op : BitVec 1) : (s.start op).k = s.k := rfl
@[simp] theorem State.start_j (s : State) (op : BitVec 1) : (s.start op).j = s.j := rfl
@[simp] theorem State.start_N (s : State) (op : BitVec 1) : (s.start op).N = s.N := rfl
@[simp] theorem State.start_i (s : State) (op : BitVec 1) : (s.start op).i = s.i := rfl
@[simp] theorem State.start_t (s : State) (op : BitVec 1) : (s.start op).t = s.t := rfl
@[simp] theorem State.start_msgLenWritten (s : State) (op : BitVec 1) : (s.start op).msgLenWritten = s.msgLenWritten := rfl
@[simp] theorem State.start_agenda (s : State) (op : BitVec 1) : (s.start op).agenda = s.agenda := rfl
@[simp] theorem State.start_readings (s : State) (op : BitVec 1) : (s.start op).readings = s.readings := rfl
@[simp] theorem State.start_unspecifiedReads (s : State) (op : BitVec 1) : (s.start op).unspecifiedReads = s.unspecifiedReads := rfl

@[simp] theorem State.observe_par (s : State) (r : Reading) : (s.observe r).par = s.par := rfl
@[simp] theorem State.observe_v (s : State) (r : Reading) : (s.observe r).v = s.v := rfl
@[simp] theorem State.observe_H (s : State) (r : Reading) : (s.observe r).H = s.H := rfl
@[simp] theorem State.observe_W (s : State) (r : Reading) : (s.observe r).W = s.W := rfl
@[simp] theorem State.observe_msg (s : State) (r : Reading) : (s.observe r).msg = s.msg := rfl
@[simp] theorem State.observe_msgLen (s : State) (r : Reading) : (s.observe r).msgLen = s.msgLen := rfl
@[simp] theorem State.observe_p (s : State) (r : Reading) : (s.observe r).p = s.p := rfl
@[simp] theorem State.observe_plen (s : State) (r : Reading) : (s.observe r).plen = s.plen := rfl
@[simp] theorem State.observe_dig (s : State) (r : Reading) : (s.observe r).dig = s.dig := rfl
@[simp] theorem State.observe_phase (s : State) (r : Reading) : (s.observe r).phase = s.phase := rfl
@[simp] theorem State.observe_op (s : State) (r : Reading) : (s.observe r).op = s.op := rfl
@[simp] theorem State.observe_err (s : State) (r : Reading) : (s.observe r).err = s.err := rfl
@[simp] theorem State.observe_L (s : State) (r : Reading) : (s.observe r).L = s.L := rfl
@[simp] theorem State.observe_k (s : State) (r : Reading) : (s.observe r).k = s.k := rfl
@[simp] theorem State.observe_j (s : State) (r : Reading) : (s.observe r).j = s.j := rfl
@[simp] theorem State.observe_N (s : State) (r : Reading) : (s.observe r).N = s.N := rfl
@[simp] theorem State.observe_i (s : State) (r : Reading) : (s.observe r).i = s.i := rfl
@[simp] theorem State.observe_t (s : State) (r : Reading) : (s.observe r).t = s.t := rfl
@[simp] theorem State.observe_msgLenWritten (s : State) (r : Reading) : (s.observe r).msgLenWritten = s.msgLenWritten := rfl
@[simp] theorem State.observe_agenda (s : State) (r : Reading) : (s.observe r).agenda = s.agenda := rfl
@[simp] theorem State.observe_readings (s : State) (r : Reading) : (s.observe r).readings = r :: s.readings := rfl
@[simp] theorem State.observe_unspecifiedReads (s : State) (r : Reading) : (s.observe r).unspecifiedReads = s.unspecifiedReads := rfl

@[simp] theorem State.observeUnspecified_par (s : State) (r : Nat → Reading) : (s.observeUnspecified r).par = s.par := rfl
@[simp] theorem State.observeUnspecified_v (s : State) (r : Nat → Reading) : (s.observeUnspecified r).v = s.v := rfl
@[simp] theorem State.observeUnspecified_H (s : State) (r : Nat → Reading) : (s.observeUnspecified r).H = s.H := rfl
@[simp] theorem State.observeUnspecified_W (s : State) (r : Nat → Reading) : (s.observeUnspecified r).W = s.W := rfl
@[simp] theorem State.observeUnspecified_msg (s : State) (r : Nat → Reading) : (s.observeUnspecified r).msg = s.msg := rfl
@[simp] theorem State.observeUnspecified_msgLen (s : State) (r : Nat → Reading) : (s.observeUnspecified r).msgLen = s.msgLen := rfl
@[simp] theorem State.observeUnspecified_p (s : State) (r : Nat → Reading) : (s.observeUnspecified r).p = s.p := rfl
@[simp] theorem State.observeUnspecified_plen (s : State) (r : Nat → Reading) : (s.observeUnspecified r).plen = s.plen := rfl
@[simp] theorem State.observeUnspecified_dig (s : State) (r : Nat → Reading) : (s.observeUnspecified r).dig = s.dig := rfl
@[simp] theorem State.observeUnspecified_phase (s : State) (r : Nat → Reading) : (s.observeUnspecified r).phase = s.phase := rfl
@[simp] theorem State.observeUnspecified_op (s : State) (r : Nat → Reading) : (s.observeUnspecified r).op = s.op := rfl
@[simp] theorem State.observeUnspecified_err (s : State) (r : Nat → Reading) : (s.observeUnspecified r).err = s.err := rfl
@[simp] theorem State.observeUnspecified_L (s : State) (r : Nat → Reading) : (s.observeUnspecified r).L = s.L := rfl
@[simp] theorem State.observeUnspecified_k (s : State) (r : Nat → Reading) : (s.observeUnspecified r).k = s.k := rfl
@[simp] theorem State.observeUnspecified_j (s : State) (r : Nat → Reading) : (s.observeUnspecified r).j = s.j := rfl
@[simp] theorem State.observeUnspecified_N (s : State) (r : Nat → Reading) : (s.observeUnspecified r).N = s.N := rfl
@[simp] theorem State.observeUnspecified_i (s : State) (r : Nat → Reading) : (s.observeUnspecified r).i = s.i := rfl
@[simp] theorem State.observeUnspecified_t (s : State) (r : Nat → Reading) : (s.observeUnspecified r).t = s.t := rfl
@[simp] theorem State.observeUnspecified_msgLenWritten (s : State) (r : Nat → Reading) : (s.observeUnspecified r).msgLenWritten = s.msgLenWritten := rfl
@[simp] theorem State.observeUnspecified_agenda (s : State) (r : Nat → Reading) : (s.observeUnspecified r).agenda = s.agenda := rfl
@[simp] theorem State.observeUnspecified_readings (s : State) (r : Nat → Reading) : (s.observeUnspecified r).readings = r s.unspecifiedReads :: s.readings := rfl
@[simp] theorem State.observeUnspecified_unspecifiedReads (s : State) (r : Nat → Reading) : (s.observeUnspecified r).unspecifiedReads = s.unspecifiedReads + 1 := rfl

@[simp] theorem State.resetEvent_par (s : State) : (s.resetEvent).par = s.par := rfl
@[simp] theorem State.resetEvent_v (s : State) : (s.resetEvent).v = (State.resetWith s.par).v := rfl
@[simp] theorem State.resetEvent_H (s : State) : (s.resetEvent).H = (State.resetWith s.par).H := rfl
@[simp] theorem State.resetEvent_W (s : State) : (s.resetEvent).W = (State.resetWith s.par).W := rfl
@[simp] theorem State.resetEvent_msg (s : State) : (s.resetEvent).msg = [] := rfl
@[simp] theorem State.resetEvent_msgLen (s : State) : (s.resetEvent).msgLen = (State.resetWith s.par).msgLen := rfl
@[simp] theorem State.resetEvent_p (s : State) : (s.resetEvent).p = [] := rfl
@[simp] theorem State.resetEvent_plen (s : State) : (s.resetEvent).plen = (State.resetWith s.par).plen := rfl
@[simp] theorem State.resetEvent_dig (s : State) : (s.resetEvent).dig = [] := rfl
@[simp] theorem State.resetEvent_phase (s : State) : (s.resetEvent).phase = Phase.idle := rfl
@[simp] theorem State.resetEvent_op (s : State) : (s.resetEvent).op = 0 := rfl
@[simp] theorem State.resetEvent_err (s : State) : (s.resetEvent).err = 0 := rfl
@[simp] theorem State.resetEvent_L (s : State) : (s.resetEvent).L = (State.resetWith s.par).L := rfl
@[simp] theorem State.resetEvent_k (s : State) : (s.resetEvent).k = (State.resetWith s.par).k := rfl
@[simp] theorem State.resetEvent_j (s : State) : (s.resetEvent).j = (State.resetWith s.par).j := rfl
@[simp] theorem State.resetEvent_N (s : State) : (s.resetEvent).N = (State.resetWith s.par).N := rfl
@[simp] theorem State.resetEvent_i (s : State) : (s.resetEvent).i = (State.resetWith s.par).i := rfl
@[simp] theorem State.resetEvent_t (s : State) : (s.resetEvent).t = (State.resetWith s.par).t := rfl
@[simp] theorem State.resetEvent_msgLenWritten (s : State) : (s.resetEvent).msgLenWritten = false := rfl
@[simp] theorem State.resetEvent_agenda (s : State) : (s.resetEvent).agenda = s.agenda := rfl
@[simp] theorem State.resetEvent_readings (s : State) : (s.resetEvent).readings = s.readings := rfl
@[simp] theorem State.resetEvent_unspecifiedReads (s : State) : (s.resetEvent).unspecifiedReads = s.unspecifiedReads := rfl

@[simp] theorem State.setMem_par (s : State) (sp : Space) (m : Memory) : (s.setMem sp m).par = s.par := by cases sp <;> rfl
@[simp] theorem State.setMem_v (s : State) (sp : Space) (m : Memory) : (s.setMem sp m).v = s.v := by cases sp <;> rfl
@[simp] theorem State.setMem_H (s : State) (sp : Space) (m : Memory) : (s.setMem sp m).H = s.H := by cases sp <;> rfl
@[simp] theorem State.setMem_W (s : State) (sp : Space) (m : Memory) : (s.setMem sp m).W = s.W := by cases sp <;> rfl
@[simp] theorem State.setMem_msgLen (s : State) (sp : Space) (m : Memory) : (s.setMem sp m).msgLen = s.msgLen := by cases sp <;> rfl
@[simp] theorem State.setMem_plen (s : State) (sp : Space) (m : Memory) : (s.setMem sp m).plen = s.plen := by cases sp <;> rfl
@[simp] theorem State.setMem_phase (s : State) (sp : Space) (m : Memory) : (s.setMem sp m).phase = s.phase := by cases sp <;> rfl
@[simp] theorem State.setMem_op (s : State) (sp : Space) (m : Memory) : (s.setMem sp m).op = s.op := by cases sp <;> rfl
@[simp] theorem State.setMem_err (s : State) (sp : Space) (m : Memory) : (s.setMem sp m).err = s.err := by cases sp <;> rfl
@[simp] theorem State.setMem_L (s : State) (sp : Space) (m : Memory) : (s.setMem sp m).L = s.L := by cases sp <;> rfl
@[simp] theorem State.setMem_k (s : State) (sp : Space) (m : Memory) : (s.setMem sp m).k = s.k := by cases sp <;> rfl
@[simp] theorem State.setMem_j (s : State) (sp : Space) (m : Memory) : (s.setMem sp m).j = s.j := by cases sp <;> rfl
@[simp] theorem State.setMem_N (s : State) (sp : Space) (m : Memory) : (s.setMem sp m).N = s.N := by cases sp <;> rfl
@[simp] theorem State.setMem_i (s : State) (sp : Space) (m : Memory) : (s.setMem sp m).i = s.i := by cases sp <;> rfl
@[simp] theorem State.setMem_t (s : State) (sp : Space) (m : Memory) : (s.setMem sp m).t = s.t := by cases sp <;> rfl
@[simp] theorem State.setMem_msgLenWritten (s : State) (sp : Space) (m : Memory) : (s.setMem sp m).msgLenWritten = s.msgLenWritten := by cases sp <;> rfl
@[simp] theorem State.setMem_agenda (s : State) (sp : Space) (m : Memory) : (s.setMem sp m).agenda = s.agenda := by cases sp <;> rfl
@[simp] theorem State.setMem_readings (s : State) (sp : Space) (m : Memory) : (s.setMem sp m).readings = s.readings := by cases sp <;> rfl
@[simp] theorem State.setMem_unspecifiedReads (s : State) (sp : Space) (m : Memory) : (s.setMem sp m).unspecifiedReads = s.unspecifiedReads := by cases sp <;> rfl

@[simp] theorem State.setMem_msg_msg (s : State) (m : Memory) : (s.setMem .msg m).msg = m := rfl
@[simp] theorem State.setMem_msg_p (s : State) (m : Memory) : (s.setMem .msg m).p = s.p := rfl
@[simp] theorem State.setMem_msg_dig (s : State) (m : Memory) : (s.setMem .msg m).dig = s.dig := rfl
@[simp] theorem State.setMem_p_msg (s : State) (m : Memory) : (s.setMem .p m).msg = s.msg := rfl
@[simp] theorem State.setMem_p_p (s : State) (m : Memory) : (s.setMem .p m).p = m := rfl
@[simp] theorem State.setMem_p_dig (s : State) (m : Memory) : (s.setMem .p m).dig = s.dig := rfl
@[simp] theorem State.setMem_dig_msg (s : State) (m : Memory) : (s.setMem .dig m).msg = s.msg := rfl
@[simp] theorem State.setMem_dig_p (s : State) (m : Memory) : (s.setMem .dig m).p = s.p := rfl
@[simp] theorem State.setMem_dig_dig (s : State) (m : Memory) : (s.setMem .dig m).dig = m := rfl

/-- A written space reads back what was put there. -/
@[simp] theorem State.setMem_mem_same (s : State) (sp : Space) (m : Memory) : (s.setMem sp m).mem sp = m := by
  cases sp <;> rfl

/-- The three spaces do not overlap. -/
theorem State.setMem_mem_other (s : State) {sp sp' : Space} (m : Memory) (h : sp' ≠ sp) :
    (s.setMem sp m).mem sp' = s.mem sp' := by
  cases sp <;> cases sp' <;> first | rfl | exact absurd rfl h

@[simp] theorem State.peek_msg (s : State) (a : Nat) : s.peek .msg a = Memory.read s.msg a := rfl
@[simp] theorem State.peek_p (s : State) (a : Nat) : s.peek .p a = Memory.read s.p a := rfl
@[simp] theorem State.peek_dig (s : State) (a : Nat) : s.peek .dig a = Memory.read s.dig a := rfl

/-- After reset no byte of memory has been written. -/
@[simp] theorem State.peek_resetWith (par : Params) (sp : Space) (a : Nat) : (State.resetWith par).peek sp a = none := by
  cases sp <;> rfl

end Sys2Proof.Machine
end

