-- ==== Sys2Proof/Laws/Ops.lean ====
section
/-! SUPPORT. One lemma per shared operation that says once everything it can do. -/

namespace Sys2Proof.Machine

/-- An operand either is there, and the operation goes on with it, or its fault is the outcome. -/
theorem withOperand_next {α : Type} {r : Except Fault α} {go : α → Host.Outcome State Fault Refusal} {s' : State}
    (h : withOperand r go = .next s') : ∃ x, r = .ok x ∧ go x = .next s' := by
  cases r with
  | ok x => exact ⟨x, rfl, h⟩
  | error f => cases h

@[simp] theorem withOperand_ok {α : Type} (x : α) (go : α → Host.Outcome State Fault Refusal) :
    withOperand (.ok x) go = go x := rfl

@[simp] theorem withOperand_error {α : Type} (f : Fault) (go : α → Host.Outcome State Fault Refusal) :
    withOperand (.error f) go = .fault f := rfl

/-- What a byte reads as after one byte was written. -/
theorem State.peek_setMem_write (s : State) (sp sp' : Space) (a a' : Nat) (b : Byte) :
    (s.setMem sp (Memory.write (s.mem sp) a b)).peek sp' a' =
      if sp' = sp ∧ a' = a then some b else s.peek sp' a' := by
  by_cases h : sp' = sp
  · subst h
    simp [State.peek, Memory.read_write]
  · simp [State.peek, State.setMem_mem_other _ _ h, h]

/-- A byte is read exactly when its address exists and it has been written. -/
theorem State.readByte_ok {s : State} {sp : Space} {a : Nat} {b : Byte} :
    s.readByte sp a = .ok b ↔ a < Params.size s.par sp ∧ s.peek sp a = some b := by
  unfold State.readByte
  split
  · cases h : s.peek sp a <;> simp [*]
  · simp [*]

/-- The two ways a byte's reading stops. -/
theorem State.readByte_error {s : State} {sp : Space} {a : Nat} {f : Fault} :
    s.readByte sp a = .error f ↔
      (a < Params.size s.par sp ∧ s.peek sp a = none ∧ f = .unwrittenByte sp a) ∨
      (¬ a < Params.size s.par sp ∧ f = .noSuchAddress sp a) := by
  unfold State.readByte
  split
  · cases h : s.peek sp a <;> simp [*, eq_comm]
  · simp [*, eq_comm]

/-- A byte is written exactly when its address exists. -/
theorem State.writeByte_ok {s s' : State} {sp : Space} {a : Nat} {b : Byte} :
    s.writeByte sp a b = .ok s' ↔
      a < Params.size s.par sp ∧ s' = s.setMem sp (Memory.write (s.mem sp) a b) := by
  unfold State.writeByte
  split <;> simp [*, eq_comm]

theorem State.writeByte_error {s : State} {sp : Space} {a : Nat} {b : Byte} {f : Fault} :
    s.writeByte sp a b = .error f ↔ ¬ a < Params.size s.par sp ∧ f = .noSuchAddress sp a := by
  unfold State.writeByte
  split <;> simp [*, eq_comm]

/-- `n` bytes are read exactly when all their addresses exist and all have been written; they come in address order. -/
theorem State.readBytes_ok {s : State} {sp : Space} {a n : Nat} {bs : List Byte} :
    s.readBytes sp a n = .ok bs ↔
      bs.length = n ∧ (∀ x, x < n → a + x < Params.size s.par sp) ∧ s.holds sp a bs := by
  induction n generalizing a bs with
  | zero =>
    simp only [State.readBytes, Except.ok.injEq, Nat.not_lt_zero, false_implies, implies_true, true_and]
    constructor
    · rintro rfl; simp [State.holds]
    · rintro ⟨h, -⟩; exact (List.length_eq_zero_iff.1 h).symm
  | succ n ih =>
    simp only [State.readBytes]
    constructor
    · intro h
      split at h
      · cases h
      · rename_i b hb
        split at h
        · cases h
        · rename_i cs hcs
          cases h
          obtain ⟨hl, ha, hh⟩ := ih.1 hcs
          obtain ⟨hb1, hb2⟩ := State.readByte_ok.1 hb
          refine ⟨by simp [hl], fun x hx => ?_, fun x hx => ?_⟩
          · cases x with
            | zero => simpa using hb1
            | succ x => have := ha x (by omega); omega
          · cases x with
            | zero => simpa using hb2
            | succ x =>
              have := hh x (by simpa using hx)
              rw [show a + (x + 1) = a + 1 + x by omega, this]; simp
    · rintro ⟨hl, ha, hh⟩
      cases bs with
      | nil => simp at hl
      | cons b cs =>
        have hb : s.readByte sp a = .ok b :=
          State.readByte_ok.2 ⟨by simpa using ha 0 (by omega), by simpa using hh 0 (by simp)⟩
        have hcs : s.readBytes sp (a + 1) n = .ok cs := by
          refine ih.2 ⟨by simpa using hl, fun x hx => ?_, fun x hx => ?_⟩
          · have := ha (x + 1) (by omega); omega
          · have := hh (x + 1) (by simpa using hx)
            rw [show a + 1 + x = a + (x + 1) by omega, this]; simp
        simp [hb, hcs]

/-- Bytes written inside the space stand there in order, every other byte of every space reads as before, and nothing but the
space is touched. -/
theorem State.writeBytes_ok {s : State} {sp : Space} {a : Nat} {bs : List Byte}
    (h : ∀ n, n < bs.length → a + n < Params.size s.par sp) :
    ∃ m, s.writeBytes sp a bs = .ok (s.setMem sp m) ∧ (s.setMem sp m).holds sp a bs ∧
      (∀ x, (x < a ∨ a + bs.length ≤ x) → Memory.read m x = Memory.read (s.mem sp) x) ∧
      (Memory.wf (s.mem sp) = true → Memory.wf m = true) ∧
      (∀ n, (∀ c ∈ s.mem sp, c.1 < n) → (∀ x, x < bs.length → a + x < n) → ∀ c ∈ m, c.1 < n) := by
  induction bs generalizing s a with
  | nil =>
    refine ⟨s.mem sp, ?_, by simp [State.holds], by simp, id, fun n hn _ => hn⟩
    cases sp <;> rfl
  | cons b bs ih =>
    have ha : a < Params.size s.par sp := by simpa using h 0 (by simp)
    let s1 := s.setMem sp (Memory.write (s.mem sp) a b)
    obtain ⟨m, h1, h2, h3, h4, h5⟩ := ih (s := s1) (a := a + 1) (fun n hn => by
      have := h (n + 1) (by simpa using hn)
      simp only [s1, State.setMem_par]; omega)
    have hs : s1.setMem sp m = s.setMem sp m := by cases sp <;> rfl
    have hm : s1.mem sp = Memory.write (s.mem sp) a b := by simp [s1]
    refine ⟨m, ?_, fun x hx => ?_, fun x hx => ?_, fun hw => h4 ?_, fun n hn hb => h5 n ?_ fun x hx => ?_⟩
    · simp only [State.writeBytes]
      rw [State.writeByte_ok.2 ⟨ha, rfl⟩]
      simpa [hs] using h1
    · cases x with
      | zero =>
        have := h3 a (by omega)
        simp only [hm, Memory.read_write_same] at this
        simpa [State.peek] using this
      | succ x =>
        have := h2 x (by simpa using hx)
        rw [hs] at this
        rw [show a + (x + 1) = a + 1 + x by omega, this]; simp
    · have hx' : x < a ∨ a + (bs.length + 1) ≤ x := by simpa using hx
      rw [h3 x (by omega), hm, Memory.read_write_other _ _ (by omega)]
    · rw [hm]; exact Memory.wf_write hw a b
    · rw [hm]; exact Memory.below_write b hn (by simpa using hb 0 (by simp))
    · have := hb (x + 1) (by simpa using hx)
      omega

/-- A write to `CMD` is ignored, or accepted, or there is no step; never two of them. -/
theorem onCommand_next {s s' : State} {accept : State → State} (h : onCommand s accept = .next s') :
    (isBusy s.phase = true ∧ s' = s) ∨ (isBusy s.phase = false ∧ isQuiescent s.phase = true ∧ s' = accept s) := by
  unfold onCommand at h
  split at h
  · cases h; exact .inl ⟨‹_›, rfl⟩
  · rename_i hb
    split at h
    · cases h; exact .inr ⟨eq_false_of_ne_true hb, ‹_›, rfl⟩
    · cases h

/-- No phase is both busy and quiescent. -/
theorem isBusy_of_isQuiescent {ph : BitVec 4} (h : isQuiescent ph = true) : isBusy ph = false := by
  revert ph; decide

theorem onCommand_quiescent {s : State} {accept : State → State} (h : isQuiescent s.phase = true) :
    onCommand s accept = .next (accept s) := by
  simp [onCommand, isBusy_of_isQuiescent h, h]

theorem onCommand_busy {s : State} {accept : State → State} (h : isBusy s.phase = true) :
    onCommand s accept = .next s := by
  simp [onCommand, h]

/-- A schedule word is written exactly when its index exists. -/
theorem State.setScheduleWord_ok {s s' : State} {n : Nat} {w : Word} :
    s.setScheduleWord n w = .ok s' ↔ ∃ h : n < 80, s' = { s with W := s.W.set n w h } := by
  unfold State.setScheduleWord
  split
  · simp [*, eq_comm]
  · simp [*]

/-- A schedule word is there exactly when its index is below 80. -/
theorem State.scheduleWord_ok {s : State} {n : Nat} {w : Word} :
    s.scheduleWord n = .ok w ↔ s.W[n]? = some w := by
  unfold State.scheduleWord
  cases s.W[n]? <;> simp

theorem State.tap_ok {s : State} {d : Nat} {w : Word} :
    s.tap d = .ok w ↔ d ≤ s.t.toNat ∧ s.W[s.t.toNat - d]? = some w := by
  unfold State.tap
  split <;> simp [*, State.scheduleWord_ok]

theorem roundConstant_ok {n : Nat} {w : Word} : roundConstant n = .ok w ↔ kTable[n]? = some w := by
  unfold roundConstant
  cases kTable[n]? <;> simp

theorem State.lengthFieldByte_ok {s : State} {n : Nat} {b : Byte} :
    s.lengthFieldByte n = .ok b ↔ (lengthField s.L)[n]? = some b := by
  unfold State.lengthFieldByte
  cases (lengthField s.L)[n]? <;> simp

end Sys2Proof.Machine
end

