-- ==== Sys2Proof/Laws/Exec.lean ====
section
/-! SUPPORT. Every micro-operation's inversion: if it answers a next state, this is what it read and what that state is. -/

namespace Sys2Proof.Machine

theorem execInit_next {s s' : State} (h : execInit s = .next s') :
    (s.par.msgCap < s.msgLen ∧ s' = s.raise .inputError) ∨
    (s.msgLen ≤ s.par.msgCap ∧
      s' = { s with
        L := s.msgLen
        H := ivTable
        plen := 0
        j := 0
        phase := if s.msgLen > 0 then Phase.padCopy else Phase.padMark }) := by
  simp only [execInit, strictLen, Bool.false_and, Bool.false_eq_true, if_false] at h
  split at h
  · cases h; exact .inl ⟨by omega, rfl⟩
  · cases h; exact .inr ⟨by omega, rfl⟩

theorem execPadCopy_next {s s' : State} (h : execPadCopy s = .next s') :
    ∃ b, s.j < s.par.msgCap ∧ s.peek .msg s.j = some b ∧ s.j < s.par.padCap ∧
      s' = if s.j + 1 = s.L then { s with p := Memory.write s.p s.j b, phase := Phase.padMark }
        else { s with p := Memory.write s.p s.j b, j := s.j + 1 } := by
  obtain ⟨b, hb, h⟩ := withOperand_next h
  obtain ⟨s1, h1, h⟩ := withOperand_next h
  obtain ⟨hb1, hb2⟩ := State.readByte_ok.1 hb
  obtain ⟨hlt, rfl⟩ := State.writeByte_ok.1 h1
  cases h
  exact ⟨b, hb1, hb2, hlt, rfl⟩

theorem execPadMark_next {s s' : State} (h : execPadMark s = .next s') :
    s.L < s.par.padCap ∧
      s' = { s with
        p := Memory.write s.p s.L 0x80#8
        k := BitVec.ofNat 7 (padZeros s.L)
        j := 0
        phase := if padZeros s.L > 0 then Phase.padZero else Phase.padLen } := by
  obtain ⟨s1, h1, h⟩ := withOperand_next h
  obtain ⟨hlt, rfl⟩ := State.writeByte_ok.1 h1
  cases h
  exact ⟨hlt, rfl⟩

theorem execPadZero_next {s s' : State} (h : execPadZero s = .next s') :
    s.zeroAddr < s.par.padCap ∧
      s' = if s.j + 1 = s.k.toNat then { s with p := Memory.write s.p s.zeroAddr 0#8, j := 0, phase := Phase.padLen }
        else { s with p := Memory.write s.p s.zeroAddr 0#8, j := s.j + 1 } := by
  obtain ⟨s1, h1, h⟩ := withOperand_next h
  obtain ⟨hlt, rfl⟩ := State.writeByte_ok.1 h1
  cases h
  exact ⟨hlt, rfl⟩

theorem execPadLen_next {s s' : State} (h : execPadLen s = .next s') :
    ∃ b, (lengthField s.L)[s.j]? = some b ∧ s.lenAddr < s.par.padCap ∧
      s' = if s.j = 15 then
          { s with
            p := Memory.write s.p s.lenAddr b
            plen := s.paddedLength
            N := s.paddedLength / 128
            i := 0
            t := 0
            phase := if s.op = 1 then Phase.done else Phase.wload }
        else { s with p := Memory.write s.p s.lenAddr b, j := s.j + 1 } := by
  obtain ⟨b, hb, h⟩ := withOperand_next h
  obtain ⟨s1, h1, h⟩ := withOperand_next h
  obtain ⟨hlt, rfl⟩ := State.writeByte_ok.1 h1
  cases h
  exact ⟨b, State.lengthFieldByte_ok.1 hb, hlt, rfl⟩

theorem execWload_next {s s' : State} (h : execWload s = .next s') :
    ∃ bs, bs.length = 8 ∧ s.holds .p s.wordAddr bs ∧ ∃ ht : s.t.toNat < 80,
      s' = if s.t = 15 then
          { s with W := s.W.set s.t.toNat (be64 bs) ht, t := 16, phase := Phase.wexp }
        else { s with W := s.W.set s.t.toNat (be64 bs) ht, t := s.t + 1 } := by
  obtain ⟨bs, hb, h⟩ := withOperand_next h
  obtain ⟨s1, h1, h⟩ := withOperand_next h
  obtain ⟨hl, -, hh⟩ := State.readBytes_ok.1 hb
  obtain ⟨ht, rfl⟩ := State.setScheduleWord_ok.1 h1
  cases h
  exact ⟨bs, hl, hh, ht, rfl⟩

theorem execWexp_next {s s' : State} (h : execWexp s = .next s') :
    16 ≤ s.t.toNat ∧ ∃ w2 w7 w15 w16, s.W[s.t.toNat - 2]? = some w2 ∧ s.W[s.t.toNat - 7]? = some w7 ∧
      s.W[s.t.toNat - 15]? = some w15 ∧ s.W[s.t.toNat - 16]? = some w16 ∧ ∃ ht : s.t.toNat < 80,
      s' = if s.t = 79 then
          { s with W := s.W.set s.t.toNat (expandWord w2 w7 w15 w16) ht, phase := Phase.loadv }
        else { s with W := s.W.set s.t.toNat (expandWord w2 w7 w15 w16) ht, t := s.t + 1 } := by
  obtain ⟨w2, h2, h⟩ := withOperand_next h
  obtain ⟨w7, h7, h⟩ := withOperand_next h
  obtain ⟨w15, h15, h⟩ := withOperand_next h
  obtain ⟨w16, h16, h⟩ := withOperand_next h
  obtain ⟨s1, h1, h⟩ := withOperand_next h
  obtain ⟨ht, rfl⟩ := State.setScheduleWord_ok.1 h1
  cases h
  exact ⟨(State.tap_ok.1 h16).1, w2, w7, w15, w16, (State.tap_ok.1 h2).2, (State.tap_ok.1 h7).2,
    (State.tap_ok.1 h15).2, (State.tap_ok.1 h16).2, ht, rfl⟩

theorem execLoadv_next {s s' : State} (h : execLoadv s = .next s') :
    s' = { s with v := s.H.toWorking, t := 0, phase := Phase.round } := by
  cases h; rfl

theorem execRound_next {s s' : State} (h : execRound s = .next s') :
    ∃ kt wt, kTable[s.t.toNat]? = some kt ∧ s.W[s.t.toNat]? = some wt ∧
      s' = if s.t = 79 then { s with v := roundFn s.v kt wt, phase := Phase.feed }
        else { s with v := roundFn s.v kt wt, t := s.t + 1 } := by
  obtain ⟨kt, hk, h⟩ := withOperand_next h
  obtain ⟨wt, hw, h⟩ := withOperand_next h
  cases h
  exact ⟨kt, wt, roundConstant_ok.1 hk, State.scheduleWord_ok.1 hw, rfl⟩

theorem execFeed_next {s s' : State} (h : execFeed s = .next s') :
    s' = if s.i + 1 < s.N then
        { s with H := feedForward s.H s.v, i := s.i + 1, t := 0, phase := Phase.wload }
      else { s with H := feedForward s.H s.v, phase := Phase.finalize } := by
  cases h; rfl

/-- FINALIZE always completes: the 128 characters stand in `DIG` and nothing else but `phase` changes. -/
theorem execFinalize_eq (s : State) :
    ∃ m, execFinalize s = .next { s with dig := m, phase := Phase.done } ∧
      (s.setMem .dig m).holds .dig 0 (hexdigest s.H) ∧
      (∀ x, 128 ≤ x → Memory.read m x = Memory.read s.dig x) ∧
      (Memory.wf s.dig = true → Memory.wf m = true) ∧
      (∀ n, (∀ c ∈ s.dig, c.1 < n) → 128 ≤ n → ∀ c ∈ m, c.1 < n) := by
  obtain ⟨m, h1, h2, h3, h4, h5⟩ := State.writeBytes_ok (s := s) (sp := .dig) (a := 0) (bs := hexdigest s.H)
    (fun n hn => by simpa [Params.size] using hn)
  refine ⟨m, ?_, h2, fun x hx => h3 x (.inr (by simpa using hx)), h4, fun n hn h128 => h5 n hn fun x hx => ?_⟩
  · simp only [execFinalize, h1, withOperand_ok]
    rfl
  · have : x < 128 := by simpa using hx
    omega

end Sys2Proof.Machine
end

