-- ==== Sys2Proof/Laws/PerInstr.lean ====
section
/-! SUPPORT. The per-instruction families: each instruction is well formed, its encoding is an assigned code, and decoding it gives
the instruction back. -/

/-- The instruction is well formed, its encoding is an assigned code, and the decoder reads the instruction from it. -/
def Sys2Proof.Laws.EncodeDecode.Statement (i : Sys2Proof.Instr) : Prop :=
  i.wf = true ∧ (Sys2Proof.encode i).wf = true ∧ Sys2Proof.decode (Sys2Proof.encode i) = .ok i

theorem Sys2Proof.Laws.EncodeDecode.digest : Sys2Proof.Laws.EncodeDecode.Statement .digest := ⟨rfl, rfl, rfl⟩
theorem Sys2Proof.Laws.EncodeDecode.padded : Sys2Proof.Laws.EncodeDecode.Statement .padded := ⟨rfl, rfl, rfl⟩
theorem Sys2Proof.Laws.EncodeDecode.holdIdle : Sys2Proof.Laws.EncodeDecode.Statement .holdIdle := ⟨rfl, rfl, rfl⟩
theorem Sys2Proof.Laws.EncodeDecode.init : Sys2Proof.Laws.EncodeDecode.Statement .init := ⟨rfl, rfl, rfl⟩
theorem Sys2Proof.Laws.EncodeDecode.padCopy : Sys2Proof.Laws.EncodeDecode.Statement .padCopy := ⟨rfl, rfl, rfl⟩
theorem Sys2Proof.Laws.EncodeDecode.padMark : Sys2Proof.Laws.EncodeDecode.Statement .padMark := ⟨rfl, rfl, rfl⟩
theorem Sys2Proof.Laws.EncodeDecode.padZero : Sys2Proof.Laws.EncodeDecode.Statement .padZero := ⟨rfl, rfl, rfl⟩
theorem Sys2Proof.Laws.EncodeDecode.padLen : Sys2Proof.Laws.EncodeDecode.Statement .padLen := ⟨rfl, rfl, rfl⟩
theorem Sys2Proof.Laws.EncodeDecode.wload : Sys2Proof.Laws.EncodeDecode.Statement .wload := ⟨rfl, rfl, rfl⟩
theorem Sys2Proof.Laws.EncodeDecode.wexp : Sys2Proof.Laws.EncodeDecode.Statement .wexp := ⟨rfl, rfl, rfl⟩
theorem Sys2Proof.Laws.EncodeDecode.loadv : Sys2Proof.Laws.EncodeDecode.Statement .loadv := ⟨rfl, rfl, rfl⟩
theorem Sys2Proof.Laws.EncodeDecode.round : Sys2Proof.Laws.EncodeDecode.Statement .round := ⟨rfl, rfl, rfl⟩
theorem Sys2Proof.Laws.EncodeDecode.feed : Sys2Proof.Laws.EncodeDecode.Statement .feed := ⟨rfl, rfl, rfl⟩
theorem Sys2Proof.Laws.EncodeDecode.finalize : Sys2Proof.Laws.EncodeDecode.Statement .finalize := ⟨rfl, rfl, rfl⟩
theorem Sys2Proof.Laws.EncodeDecode.holdDone : Sys2Proof.Laws.EncodeDecode.Statement .holdDone := ⟨rfl, rfl, rfl⟩
theorem Sys2Proof.Laws.EncodeDecode.holdError : Sys2Proof.Laws.EncodeDecode.Statement .holdError := ⟨rfl, rfl, rfl⟩
end

