-- ==== Sys2Proof/Laws/Ports.lean ====
section
/-! SUPPORT. One lemma per port access of the host: what it answers, and when. -/

namespace Sys2Proof.Machine

@[simp] theorem hostReadPort_some (r : Reading) (u : Nat → Reading) (s : State) :
    hostReadPort (some r) u s = .next (s.observe r) := rfl

@[simp] theorem hostReadPort_none (u : Nat → Reading) (s : State) :
    hostReadPort none u s = .next (s.observeUnspecified u) := rfl

/-- A read at or past the size of the space stops, whatever the window. -/
theorem hostReadCell_absent {sp : Space} {window : Bool} {a : Nat} {r : Byte → Reading} {s : State}
    (h : Params.size s.par sp ≤ a) : hostReadCell sp window a r s = .fault (.noSuchAddress sp a) := by
  simp [hostReadCell, Nat.not_lt.mpr h]

/-- Inside the window a written byte is what the read gives. -/
theorem hostReadCell_valid {sp : Space} {a : Nat} {r : Byte → Reading} {s : State} {b : Byte}
    (ha : a < Params.size s.par sp) (hb : s.peek sp a = some b) :
    hostReadCell sp true a r s = .next (s.observe (r b)) := by
  simp [hostReadCell, ha, hb]

/-- Outside the window, and of a byte nothing has written, the read gives an unspecified byte. -/
theorem hostReadCell_unspecified {sp : Space} {window : Bool} {a : Nat} {r : Byte → Reading} {s : State}
    (ha : a < Params.size s.par sp) (h : window = false ∨ s.peek sp a = none) :
    hostReadCell sp window a r s = .next (s.observeUnspecified fun n => r (Config.unspecifiedByte n)) := by
  rcases h with h | h <;> simp [hostReadCell, ha, h]

/-- Everything the read of a byte can answer. -/
theorem hostReadCell_next {sp : Space} {window : Bool} {a : Nat} {r : Byte → Reading} {s s' : State}
    (h : hostReadCell sp window a r s = .next s') :
    a < Params.size s.par sp ∧
      ((window = true ∧ ∃ b, s.peek sp a = some b ∧ s' = s.observe (r b)) ∨
       ((window = false ∨ s.peek sp a = none) ∧
          s' = s.observeUnspecified fun n => r (Config.unspecifiedByte n))) := by
  by_cases ha : a < Params.size s.par sp
  · refine ⟨ha, ?_⟩
    cases hb : s.peek sp a <;> cases window <;> simp [hostReadCell, ha, hb] at h ⊢ <;> exact h.symm
  · simp [hostReadCell, ha] at h

theorem hostReadMsgLen_eq (s : State) :
    hostReadMsgLen s = .next (if s.msgLenWritten = true then s.observe (.msgLen s.msgLen)
      else s.observeUnspecified fun n => .msgLen (Config.unspecifiedNumber n)) := by
  cases h : s.msgLenWritten <;> simp [hostReadMsgLen, h]

theorem hostReadPlen_eq (s : State) :
    hostReadPlen s = .next (if isDone s.phase = true then s.observe (.plen s.plen)
      else s.observeUnspecified fun n => .plen (Config.unspecifiedNumber n)) := by
  cases h : isDone s.phase <;> simp [hostReadPlen, h]

/-- A write of a Message byte is answered exactly for an address of the memory in a quiescent phase. -/
theorem hostWriteMsg_next {a : Nat} {b : Byte} {s s' : State} :
    hostWriteMsg a b s = .next s' ↔
      a < s.par.msgCap ∧ isQuiescent s.phase = true ∧ s' = { s with msg := Memory.write s.msg a b } := by
  by_cases ha : a < s.par.msgCap
  · cases hq : isQuiescent s.phase <;>
      simp [hostWriteMsg, State.writeByte, Params.size, State.mem, State.setMem, ha, hq, eq_comm]
  · simp [hostWriteMsg, State.writeByte, Params.size, ha]

theorem hostWriteMsgLen_next {n : Nat} {s s' : State} :
    hostWriteMsgLen n s = .next s' ↔
      isQuiescent s.phase = true ∧ s' = { s with msgLen := n, msgLenWritten := true } := by
  cases hq : isQuiescent s.phase <;> simp [hostWriteMsgLen, hq, eq_comm]

end Sys2Proof.Machine
end

