-- ==== Sys2Proof/Laws/Step.lean ====
section
/-! SUPPORT. One lemma per kind of turn: what a step is, so that no proof unfolds the sequencer. -/

namespace Sys2Proof.Machine

theorem step_engine {s : State} (h : s.agenda = []) : step s = engineTurn s := by
  simp [step, takeTurn, h]

theorem step_engine_cons {s : State} {rest : List Turn} (h : s.agenda = .engine :: rest) :
    step s = engineTurn { s with agenda := rest } := by
  simp [step, takeTurn, h]

theorem step_host {s : State} {m : HostMove} {rest : List Turn} (h : s.agenda = .host m :: rest) :
    step s = hostTurn m { s with agenda := rest } := by
  simp [step, takeTurn, h]

theorem step_wait {s : State} {rest : List Turn} (h : s.agenda = .wait :: rest) :
    step s = waitTurn rest s := by
  simp [step, takeTurn, h]

theorem step_reset {s : State} {rest : List Turn} (h : s.agenda = .reset :: rest) :
    step s = .next (State.resetEvent { s with agenda := rest }) := by
  simp [step, takeTurn, h]

/-- The engine's turn is the micro-operation its phase code decodes to. -/
theorem engineTurn_of_decode {s : State} {i : Instr} (h : decode (.phase s.phase) = .ok i) :
    engineTurn s = exec i s := by
  simp [engineTurn, runCode, h]

/-- A byte written to `CMD`, whatever it is, is one port access: ignored when busy, accepted when quiescent. -/
theorem runCode_cmd (c : BitVec 8) (s : State) :
    runCode (.cmd c) s = onCommand s fun s =>
      if c = 0x01#8 then s.start 0 else if c = 0x02#8 then s.start 1 else s.clearError.raise .illegalCommand := by
  by_cases h1 : c = 0x01#8
  · subst h1; rfl
  · by_cases h2 : c = 0x02#8
    · subst h2; rfl
    · have hd : decode (.cmd c) = .error (.illegalCommand c) := by
        simp only [decode, decodeCommand]
      simp [runCode, hd, illegalCommand, h1, h2]

theorem engineTurn_idle {s : State} (h : s.phase = Phase.idle) : engineTurn s = execHoldIdle s := by
  unfold engineTurn runCode; rw [h]; rfl

theorem engineTurn_init {s : State} (h : s.phase = Phase.init) : engineTurn s = execInit s := by
  unfold engineTurn runCode; rw [h]; rfl

theorem engineTurn_padCopy {s : State} (h : s.phase = Phase.padCopy) : engineTurn s = execPadCopy s := by
  unfold engineTurn runCode; rw [h]; rfl

theorem engineTurn_padMark {s : State} (h : s.phase = Phase.padMark) : engineTurn s = execPadMark s := by
  unfold engineTurn runCode; rw [h]; rfl

theorem engineTurn_padZero {s : State} (h : s.phase = Phase.padZero) : engineTurn s = execPadZero s := by
  unfold engineTurn runCode; rw [h]; rfl

theorem engineTurn_padLen {s : State} (h : s.phase = Phase.padLen) : engineTurn s = execPadLen s := by
  unfold engineTurn runCode; rw [h]; rfl

theorem engineTurn_wload {s : State} (h : s.phase = Phase.wload) : engineTurn s = execWload s := by
  unfold engineTurn runCode; rw [h]; rfl

theorem engineTurn_wexp {s : State} (h : s.phase = Phase.wexp) : engineTurn s = execWexp s := by
  unfold engineTurn runCode; rw [h]; rfl

theorem engineTurn_loadv {s : State} (h : s.phase = Phase.loadv) : engineTurn s = execLoadv s := by
  unfold engineTurn runCode; rw [h]; rfl

theorem engineTurn_round {s : State} (h : s.phase = Phase.round) : engineTurn s = execRound s := by
  unfold engineTurn runCode; rw [h]; rfl

theorem engineTurn_feed {s : State} (h : s.phase = Phase.feed) : engineTurn s = execFeed s := by
  unfold engineTurn runCode; rw [h]; rfl

theorem engineTurn_finalize {s : State} (h : s.phase = Phase.finalize) : engineTurn s = execFinalize s := by
  unfold engineTurn runCode; rw [h]; rfl

theorem engineTurn_done {s : State} (h : s.phase = Phase.done) : engineTurn s = execHoldDone s := by
  unfold engineTurn runCode; rw [h]; rfl

theorem engineTurn_error {s : State} (h : s.phase = Phase.error) : engineTurn s = execHoldError s := by
  unfold engineTurn runCode; rw [h]; rfl

/-- A reserved phase has no step. -/
theorem engineTurn_reserved {s : State} (h : 14 ≤ s.phase.toNat) : engineTurn s = .fault (.reservedPhase s.phase) := by
  have hp : s.phase = 14#4 ∨ s.phase = 15#4 := by
    revert h; generalize s.phase = p; revert p; decide
  rcases hp with hp | hp <;> (unfold engineTurn runCode; rw [hp]; rfl)

/-- Every phase is one of the fourteen codes or reserved. -/
theorem phase_cases (p : BitVec 4) :
    p = Phase.idle ∨ p = Phase.init ∨ p = Phase.padCopy ∨ p = Phase.padMark ∨ p = Phase.padZero ∨ p = Phase.padLen ∨
      p = Phase.wload ∨ p = Phase.wexp ∨ p = Phase.loadv ∨ p = Phase.round ∨ p = Phase.feed ∨ p = Phase.finalize ∨
      p = Phase.done ∨ p = Phase.error ∨ 14 ≤ p.toNat := by
  revert p; decide

/-- Steps compose. -/
theorem run_add (m n : Nat) (s : State) :
    run (m + n) s =
      match run m s with
      | .next s' => run n s'
      | .fault f => .fault f
      | .refused r => .refused r := by
  induction m generalizing s with
  | zero => simp [run]
  | succ m ih =>
    rw [Nat.add_right_comm]
    simp only [run]
    cases step s with
    | next s' => exact ih s'
    | fault f => rfl
    | refused r => rfl

/-- `run` is the host's own run of the machine. -/
theorem run_eq_core_run (n : Nat) (s : State) : run n s = Host.Core.run Sys2Proof.core n s := by
  induction n generalizing s with
  | zero => rfl
  | succ n ih =>
    simp only [run, Host.Core.run]
    have hc : Sys2Proof.core.step s = step s := rfl
    rw [hc]
    cases step s with
    | next s' => exact ih s'
    | fault f => rfl
    | refused r => rfl

end Sys2Proof.Machine
end

