-- ==== Sys2Proof/Tests/Slice0.lean ====
section
/-! SUPPORT. Small checks of one step each, with the expected values of spec/95_test_vectors.md and of the rules' worked examples, and
for every statement with hypotheses a state that meets them. -/

namespace Sys2Proof.Tests

-- One theorem after another: checked side by side they reserve more memory than the build allows.
set_option Elab.async false

open Sys2Proof Sys2Proof.Machine

/-- The machine right after reset, put into a phase with the given counters. -/
def at' (ph : BitVec 4) (L j : Nat) (k t : BitVec 7) : State :=
  { State.reset with phase := ph, L := L, j := j, k := k, t := t, i := 0, N := 1 }

/-- The outcome is a next state with a property. -/
def nextWith (o : Host.Outcome State Fault Refusal) (q : State → Bool) : Bool :=
  match o with
  | .next s => q s
  | _ => false

/-- The bytes of a list, from address 0. -/
def mem (bs : List Byte) : Memory := (List.range bs.length).zip bs

/-- A memory of `n` bytes `0x61`. -/
def aaa (n : Nat) : Memory := mem (List.replicate n 0x61#8)

/-! ## Decoding: words written out from spec/30_encoding.md R92, R93 -/

theorem test_decode_digest : decodeTableWord 8 0b00000001 = some .digest := by decide
theorem test_decode_padded : decodeTableWord 8 0b00000010 = some .padded := by decide
theorem test_decode_holdIdle : decodeTableWord 8 0b0000 = some .holdIdle := by decide
theorem test_decode_init : decode (.phase 0b0001#4) = .ok .init := by decide
theorem test_decode_init_four_bits : decodeTableWord 4 0b0001 = some .init := by decide
theorem test_decode_padCopy : decode (.phase 0b0010#4) = .ok .padCopy := by decide
theorem test_decode_padCopy_four_bits : decodeTableWord 4 0b0010 = some .padCopy := by decide
theorem test_decode_padMark : decodeTableWord 8 0b0011 = some .padMark := by decide
theorem test_decode_padZero : decodeTableWord 8 0b0100 = some .padZero := by decide
theorem test_decode_padLen : decodeTableWord 8 0b0101 = some .padLen := by decide
theorem test_decode_wload : decodeTableWord 8 0b0110 = some .wload := by decide
theorem test_decode_wexp : decodeTableWord 8 0b0111 = some .wexp := by decide
theorem test_decode_loadv : decodeTableWord 8 0b1000 = some .loadv := by decide
theorem test_decode_round : decodeTableWord 8 0b1001 = some .round := by decide
theorem test_decode_feed : decodeTableWord 8 0b1010 = some .feed := by decide
theorem test_decode_finalize : decodeTableWord 8 0b1011 = some .finalize := by decide
theorem test_decode_holdDone : decodeTableWord 8 0b1100 = some .holdDone := by decide
theorem test_decode_holdError : decodeTableWord 8 0b1101 = some .holdError := by decide
theorem test_decode_reserved : decodeTableWord 8 14 = none ∧ decodeTableWord 8 15 = none := by decide
theorem test_decode_illegal : decode (.cmd 0x00#8) = .error (.illegalCommand 0x00#8) ∧
    decode (.cmd 0x03#8) = .error (.illegalCommand 0x03#8) ∧
    decode (.cmd 0xff#8) = .error (.illegalCommand 0xff#8) := by decide

/-! ## Well-formedness: each check refuses an ill-formed term -/

theorem test_wf_refuses_command_zero : Code.wf (.cmd 0x00#8) = false := by decide
theorem test_wf_refuses_command_three : Code.wf (.cmd 0x03#8) = false := by decide
theorem test_wf_refuses_phase_14 : Code.wf (.phase 14#4) = false := by decide
theorem test_wf_refuses_writeMsg : HostMove.wf Params.default (.writeMsg 1024 0) = false := by decide
theorem test_wf_refuses_readMsg : HostMove.wf Params.default (.readMsg 1024) = false := by decide
theorem test_wf_refuses_readP : HostMove.wf Params.default (.readP 1152) = false := by decide
theorem test_wf_refuses_readDig : HostMove.wf Params.default (.readDig 128) = false := by decide
theorem test_wf_refuses_turn : Turn.wf Params.default (.host (.readDig 128)) = false := by decide
theorem test_wf_refuses_wrmsg : ScriptLine.wf Params.default (.wrmsg 1023 [0, 0]) = false := by decide
theorem test_wf_refuses_rdp : ScriptLine.wf Params.default (.rdp 1152 1) = false := by decide

/-- The capacity of `P` for `MSG_CAP = 1024` (95_test_vectors.md Part 3). -/
theorem test_padCap : Params.default.padCap = 1152 := by decide

/-! ## Commands (95_test_vectors.md V11) -/

theorem test_digest_status :
    nextWith (exec .digest { State.reset with msgLen := 3 }) (fun s => statusWord s == 0x0011#16) = true := by decide
theorem test_padded_status :
    nextWith (exec .padded State.reset) (fun s => statusWord s == 0x0091#16) = true := by decide
theorem test_illegal_status :
    nextWith (hostTurn (.writeCmd 0x00#8) State.reset) (fun s => statusWord s == 0x034d#16) = true := by decide
theorem test_busy_ignored :
    nextWith (hostTurn (.writeCmd 0x7e#8) (at' Phase.round 3 0 0 40)) (fun s => statusWord s == 0x0019#16) = true := by decide

/-! ## INIT (95_test_vectors.md V11, R124) -/

theorem test_init_starts :
    nextWith (exec .init { at' Phase.init 9 9 9 9 with msgLen := 3 }) (fun s =>
      s.L == 3 && s.H.h7 == 0x5be0cd19137e2179#64 && s.plen == 0 && s.j == 0 && statusWord s == 0x0012#16) = true := by decide
theorem test_init_too_long :
    nextWith (exec .init { at' Phase.init 9 9 9 9 with msgLen := 1025 }) (fun s =>
      statusWord s == 0x014d#16 && s.L == 9) = true := by decide

/-! ## Padding (R150 to R153, 95_test_vectors.md V4, V6) -/

theorem test_padCopy_last :
    nextWith (exec .padCopy { at' Phase.padCopy 3 2 0 0 with msg := mem [0x61, 0x62, 0x63] }) (fun s =>
      s.peek .p 2 == some 0x63 && s.phase == Phase.padMark && s.j == 2) = true := by decide
theorem test_padCopy_unwritten :
    exec .padCopy (at' Phase.padCopy 3 2 0 0) = .fault (.unwrittenByte .msg 2) := by rfl
theorem test_padMark_three :
    nextWith (exec .padMark (at' Phase.padMark 3 2 0 0)) (fun s =>
      s.peek .p 3 == some 0x80 && s.k == 108 && s.j == 0 && s.phase == Phase.padZero) = true := by decide
theorem test_padMark_111 :
    nextWith (exec .padMark (at' Phase.padMark 111 2 0 0)) (fun s => s.k == 0 && s.phase == Phase.padLen) = true := by decide
theorem test_padZero_last :
    nextWith (exec .padZero (at' Phase.padZero 3 107 108 0)) (fun s =>
      s.peek .p 111 == some 0 && s.j == 0 && s.phase == Phase.padLen) = true := by decide
theorem test_padLen_last :
    nextWith (exec .padLen (at' Phase.padLen 3 15 108 9)) (fun s => s.peek .p 127 == some 0x18 && s.plen == 128 &&
      s.N == 1 && s.i == 0 && s.t == 0 && s.phase == Phase.wload) = true := by decide
theorem test_padLen_padded :
    nextWith (exec .padLen { at' Phase.padLen 112 14 127 9 with op := 1 }) (fun s =>
      s.peek .p 254 == some 0x03 && s.j == 15 && s.phase == Phase.padLen) = true := by decide

/-! ## Schedule (R176, R177) -/

theorem test_wload_big_endian :
    nextWith (exec .wload { at' Phase.wload 3 0 0 0 with p := mem [0x61, 0x62, 0x63, 0x80, 0, 0, 0, 0] }) (fun s =>
      s.W[0] == 0x6162638000000000#64 && s.t == 1 && s.phase == Phase.wload) = true := by decide +kernel
theorem test_wexp_seventeen :
    nextWith (exec .wexp { at' Phase.wexp 3 0 0 17 with
        W := (Vector.replicate 80 (0 : Word)).set 15 0x18#64 }) (fun s =>
      s.W[17] == 0x00030000000000c0#64 && s.t == 18) = true := by decide +kernel
theorem test_wexp_first :
    nextWith (exec .wexp { at' Phase.wexp 3 0 0 16 with
        W := (Vector.replicate 80 (0 : Word)).set 1 1#64 |>.set 9 2#64 |>.set 0 4#64 |>.set 14 1#64 }) (fun s =>
      s.W[16] == 0x810020000000000e#64) = true := by decide +kernel

/-! ## Compression (R195, R196, R198) -/

theorem test_loadv_copies :
    nextWith (exec .loadv { at' Phase.loadv 3 0 0 79 with H := ivTable }) (fun s =>
      s.v.a == 0x6a09e667f3bcc908#64 && s.v.h == 0x5be0cd19137e2179#64 && s.t == 0 && s.phase == Phase.round) = true := by decide
theorem test_round_zero :
    nextWith (exec .round { at' Phase.round 3 0 0 0 with
        v := ivTable.toWorking, W := (Vector.replicate 80 (0 : Word)).set 0 0x6162638000000000#64 }) (fun s =>
      s.v == ⟨0xf6afceb8bcfcddf5, 0x6a09e667f3bcc908, 0xbb67ae8584caa73b, 0x3c6ef372fe94f82b,
        0x58cb02347ab51f91, 0x510e527fade682d1, 0x9b05688c2b3e6c1f, 0x1f83d9abfb41bd6b⟩ && s.t == 1) = true := by
  decide +kernel
theorem test_round_last_of_abc :
    nextWith (exec .round { at' Phase.round 3 0 0 79 with
        v := ⟨0x10d9c4c4295599f6, 0xd67806db8b148677, 0x654ef9abec389ca9, 0xc8960e6be864b916,
          0x9bb4d39778c07f9e, 0x25c96a7768fb2aa3, 0xceb9fc3691ce8326, 0x995019a6ff3ba3de⟩
        W := (Vector.replicate 80 (0 : Word)).set 79 0x92aeeed1a7bcf7d2#64 }) (fun s =>
      s.v == ⟨0x73a54f399fa4b1b2, 0x10d9c4c4295599f6, 0xd67806db8b148677, 0x654ef9abec389ca9,
        0xd08446aa79693ed7, 0x9bb4d39778c07f9e, 0x25c96a7768fb2aa3, 0xceb9fc3691ce8326⟩ && s.phase == Phase.feed) = true := by
  decide +kernel
theorem test_feed_abc :
    nextWith (exec .feed { at' Phase.feed 3 0 0 79 with
        H := ivTable
        v := ⟨0x73a54f399fa4b1b2, 0x10d9c4c4295599f6, 0xd67806db8b148677, 0x654ef9abec389ca9,
          0xd08446aa79693ed7, 0x9bb4d39778c07f9e, 0x25c96a7768fb2aa3, 0xceb9fc3691ce8326⟩ }) (fun s =>
      s.H == ⟨0xddaf35a193617aba, 0xcc417349ae204131, 0x12e6fa4e89a97ea2, 0x0a9eeee64b55d39a,
        0x2192992a274fc1a8, 0x36ba3c23a3feebbd, 0x454d4423643ce80e, 0x2a9ac94fa54ca49f⟩ &&
      s.phase == Phase.finalize) = true := by decide
theorem test_feed_next_block :
    nextWith (exec .feed { at' Phase.feed 3 0 0 79 with N := 2 }) (fun s =>
      s.i == 1 && s.t == 0 && s.phase == Phase.wload) = true := by decide

/-! ## Digest assembler (R222, 95_test_vectors.md V10) -/

theorem test_finalize_digits :
    nextWith (exec .finalize { at' Phase.finalize 3 0 0 79 with
        H := ⟨0x0123456789abcdef, 0, 0, 1, 0, 0, 0, 0x0f0f0f0f0f0f0f0f⟩ }) (fun s =>
      s.dig.length == 128 && s.peek .dig 9 == some 0x39 && s.peek .dig 10 == some 0x61 && s.peek .dig 15 == some 0x66 &&
      s.peek .dig 62 == some 0x30 && s.peek .dig 63 == some 0x31 && s.peek .dig 112 == some 0x30 &&
      s.peek .dig 113 == some 0x66 && statusWord s == 0x002c#16) = true := by decide +kernel

/-! ## Quiescent phases (R235) -/

theorem test_hold_idle : step State.reset = .next State.reset := by rfl
theorem test_hold_done : step { State.reset with phase := Phase.done } = .next { State.reset with phase := Phase.done } := by rfl
theorem test_hold_error : step { State.reset with phase := Phase.error } = .next { State.reset with phase := Phase.error } := by rfl
theorem test_reserved_stuck : step { State.reset with phase := 14 } = .fault (.reservedPhase 14) := by rfl

/-! ## The word functions (95_test_vectors.md V5) and the padding counts (V6) -/

theorem test_sigma0 : sigma0 0x0123456789abcdef#64 = 0x6f92c77c6c4f1aa1#64 := by decide
theorem test_sigma1 : sigma1 0x0123456789abcdef#64 = 0x70a3460dbbd4317a#64 := by decide
theorem test_bigSigma0 : bigSigma0 0x6a09e667f3bcc908#64 = 0x08c4db56aac80c2a#64 := by decide
theorem test_bigSigma1 : bigSigma1 0x510e527fade682d1#64 = 0x9427e33bb5c9dbca#64 := by decide
theorem test_ch : ch 0x510e527fade682d1#64 0x9b05688c2b3e6c1f#64 0x1f83d9abfb41bd6b#64 = 0x1f85c98c7b273d3b#64 := by decide
theorem test_maj : maj 0x6a09e667f3bcc908#64 0xbb67ae8584caa73b#64 0x3c6ef372fe94f82b#64 = 0x3a6fe667f69ce92b#64 := by decide
theorem test_padLength : padLength 111 = 128 ∧ padLength 112 = 256 ∧ padLength 2305843009213693951 = 2305843009213694080 := by
  decide
theorem test_lengthField_wraps : lengthField (2 ^ 62 + 5) = List.replicate 15 0 ++ [0x28#8] := by decide

/-! ## Ports (R40, 95_test_vectors.md PR4, PR5) -/

theorem test_read_dig_after_padded :
    hostTurn (.readDig 0) { State.reset with phase := Phase.done, op := 1, dig := mem [0x64] } =
      .next ({ State.reset with phase := Phase.done, op := 1, dig := mem [0x64] }.observeUnspecified
        fun n => .dig 0 (Config.unspecifiedByte n)) := by rfl
theorem test_read_msgLen_before_write :
    hostTurn .readMsgLen State.reset =
      .next (State.reset.observeUnspecified fun n => .msgLen (Config.unspecifiedNumber n)) := by rfl
theorem test_write_while_busy :
    hostTurn (.writeMsg 0 1) (at' Phase.round 3 0 0 0) = .refused (.portWriteOutsideWindow .msg) := by rfl
theorem test_write_past_memory :
    hostTurn (.writeMsg 1024 1) State.reset = .fault (.noSuchAddress .msg 1024) := by rfl
theorem test_read_back_message :
    nextWith (hostTurn (.writeMsg 1023 7) State.reset) (fun s =>
      nextWith (hostTurn (.readMsg 1023) s) (fun u => u.readings == [.msg 1023 7])) = true := by decide

/-! ## Witnesses: states that meet the hypotheses of the statements -/

/-- A quiescent machine that holds the one-byte Message `61`, about to be given a command. -/
def ready (c : BitVec 8) (ph : BitVec 4) : State :=
  { State.reset with phase := ph, msgLen := 1, msg := aaa 1, agenda := [.host (.writeCmd c)] }

/-- A machine processing block 0 of one block of zero bytes. -/
def inWload : State :=
  { at' Phase.wload 111 0 0 0 with p := mem (List.replicate 128 0), plen := 128 }

theorem witness_DecodeAndEncodeAgree : Instr.wf .finalize = true ∧ decode (.phase 11#4) = .ok .finalize := by decide

theorem witness_StepRunsTheDecodedInstruction :
    State.reset.nextCode = some (.phase 0) ∧ decode (.phase 0#4) = .ok .holdIdle ∧
    (ready 1 0).nextCode = some (.cmd 1) ∧ decode (.cmd 1#8) = .ok .digest ∧
    ({ at' Phase.round 1 0 0 0 with agenda := [.wait] } : State).nextCode = some (.phase 9) := by decide

theorem witness_PlacedWordIsRunNext : decodeTableWord 8 1 = some .digest ∧ decodeTableWord 4 1 = some .init := by decide

theorem witness_CommandsStartAnOperation :
    isQuiescent (0 : BitVec 4) = true ∧ isQuiescent (12 : BitVec 4) = true ∧ isQuiescent (13 : BitVec 4) = true ∧
    isBusy (1 : BitVec 4) = true ∧ isBusy (11 : BitVec 4) = true ∧ 14 ≤ (14 : BitVec 4).toNat := by decide

theorem witness_AcceptanceWritesOpErrPhaseOnly : ∃ (s u x : State) (rest : List Turn),
    s.agenda = .host (.writeCmd 1) :: rest ∧ s.phase = 13 ∧ u.agenda = .host (.writeCmd 0) :: rest ∧ u.phase = 0 ∧
    x.agenda = .host (.writeCmd 2) :: rest ∧ x.phase = 12 :=
  ⟨ready 1 13, ready 0 0, ready 2 12, [], rfl, rfl, rfl, rfl, rfl, rfl⟩

theorem witness_CommandWhileBusyIsIgnored : ∃ (s u : State) (rest : List Turn),
    s.agenda = .host (.writeCmd 2) :: rest ∧ 1 ≤ s.phase.toNat ∧ s.phase.toNat ≤ 11 ∧
    u.agenda = .host (.writeCmd 0) :: rest ∧ u.phase.toNat = 11 :=
  ⟨ready 2 1, ready 0 11, [], rfl, by decide, by decide, rfl, by decide⟩

theorem witness_InitChecksLengthThenLoads :
    ({ State.reset with msgLen := 1025 } : State).msgLen > State.reset.par.msgCap ∧
    ({ State.reset with msgLen := 1024 } : State).msgLen ≤ State.reset.par.msgCap := by decide

theorem witness_PadCopyCopiesOneByte : ∃ s u : State,
    s.copyAddr < s.par.msgCap ∧ s.peek .msg s.copyAddr = some 0x61#8 ∧ s.j + 1 = s.L ∧
    u.copyAddr = u.par.msgCap - 1 ∧ u.peek .msg u.copyAddr = some 0x62#8 ∧ u.j + 1 ≠ u.L :=
  ⟨{ at' Phase.padCopy 1 0 0 0 with msg := aaa 1 }, { at' Phase.padCopy 1 1023 0 0 with msg := [(1023, 0x62)] },
    by decide⟩

theorem witness_PadMarkWritesTheMarker : ∃ s u : State,
    s.L ≤ s.par.msgCap ∧ s.L % 128 = 111 ∧ u.L ≤ u.par.msgCap ∧ u.L = u.par.msgCap ∧ u.L % 128 ≠ 111 :=
  ⟨at' Phase.padMark 111 0 0 0, at' Phase.padMark 1024 0 0 0, by decide⟩

theorem witness_PadZeroWritesOneZero : ∃ s u : State,
    s.zeroAddr < s.par.padCap ∧ s.j + 1 = s.k.toNat ∧ u.zeroAddr + 1 = u.par.padCap ∧ u.j + 1 ≠ u.k.toNat :=
  ⟨at' Phase.padZero 3 107 108 0, at' Phase.padZero 1024 126 0 0, by decide⟩

theorem witness_PadLenWritesTheLengthField : ∃ s u x : State,
    s.j ≤ 15 ∧ s.lenAddr < s.par.padCap ∧ s.j = 15 ∧ u.j < 8 ∧ u.lenAddr < u.par.padCap ∧
    x.j = 8 ∧ x.lenAddr < x.par.padCap :=
  ⟨at' Phase.padLen 3 15 108 0, at' Phase.padLen 3 7 108 0, at' Phase.padLen 3 8 108 0,
    by decide⟩

theorem witness_UnwrittenOrAbsentCellStops : ∃ s : State,
    s.copyAddr < s.par.msgCap ∧ s.peek .msg s.copyAddr = none ∧
    Params.size s.par .msg ≤ 1024 ∧ Params.size s.par .p ≤ 1152 ∧ Params.size s.par .dig ≤ 128 :=
  ⟨at' Phase.padCopy 1 0 0 0, by decide⟩

theorem witness_WloadLoadsOneWord : ∃ s u : State,
    s.t = 15 ∧ s.t.toNat < 80 ∧ s.wordAddr + 7 < s.par.padCap ∧ s.holds .p s.wordAddr [0, 0, 0, 0, 0, 0, 0, 0] ∧
    u.t.toNat = 0 ∧ u.wordAddr + 7 < u.par.padCap ∧ u.holds .p u.wordAddr [0, 0, 0, 0, 0, 0, 0, 0] :=
  ⟨{ inWload with t := 15 }, inWload, by decide +kernel⟩

theorem witness_WexpExpandsOneWord : ∃ s u : State,
    s.t.toNat = 16 ∧ s.W[s.t.toNat - 2]? = some resetWord ∧ s.W[s.t.toNat - 7]? = some resetWord ∧
    s.W[s.t.toNat - 15]? = some resetWord ∧ s.W[s.t.toNat - 16]? = some resetWord ∧
    u.t = 79 ∧ u.W[u.t.toNat - 2]? = some resetWord ∧ u.W[u.t.toNat - 7]? = some resetWord ∧
    u.W[u.t.toNat - 15]? = some resetWord ∧ u.W[u.t.toNat - 16]? = some resetWord :=
  ⟨at' Phase.wexp 1 0 0 16, at' Phase.wexp 1 0 0 79, by decide +kernel⟩

theorem witness_RoundUpdatesTheWorkingRegisters : ∃ s u : State,
    kTable[s.t.toNat]? = some 0x428a2f98d728ae22#64 ∧ s.W[s.t.toNat]? = some resetWord ∧ s.t ≠ 79 ∧
    kTable[u.t.toNat]? = some 0x6c44198c4a475817#64 ∧ u.W[u.t.toNat]? = some resetWord ∧ u.t = 79 :=
  ⟨at' Phase.round 1 0 0 0, at' Phase.round 1 0 0 79, by decide +kernel⟩

theorem witness_FeedAddsTheWorkingRegisters : ∃ s u : State, s.i + 1 < s.N ∧ u.N ≤ u.i + 1 :=
  ⟨{ at' Phase.feed 1 0 0 0 with N := 2 }, at' Phase.feed 1 0 0 0, by decide⟩

theorem witness_FinalizeWritesTheDigest :
    ivTable.words[0]? = some 0x6a09e667f3bcc908#64 ∧ ivTable.words[7]? = some 0x5be0cd19137e2179#64 ∧ (15 : Nat) < 16 := by
  decide

theorem witness_QuiescentPhasesHold : isQuiescent State.reset.phase = true ∧ State.reset.agenda = [] := by decide

theorem witness_ReservedPhaseIsStuck : ∃ s u : State, 14 ≤ s.phase.toNat ∧ 14 ≤ u.phase.toNat ∧ s.phase ≠ u.phase :=
  ⟨{ State.reset with phase := 14 }, { State.reset with phase := 15 }, by decide⟩

theorem witness_StatusLayout : ∃ s : State, s.phase.toNat ≤ 13 ∧ s.phase = 13 :=
  ⟨{ State.reset with phase := 13 }, by decide⟩

theorem witness_ResetEventAbandonsTheOperation : ∃ s : State, s.agenda = .reset :: [.wait] ∧ isBusy s.phase = true :=
  ⟨{ inWload with agenda := [.reset, .wait] }, rfl, by decide⟩

theorem inWload_inv : State.Inv inWload where
  msgWf := by decide
  pWf := by decide +kernel
  digWf := by decide
  msgBelow := by decide
  pBelow := by decide +kernel
  digBelow := by decide
  phaseLegal := by decide
  errLegal := by decide
  seq := by
    refine ⟨?_, ?_, ?_, ?_, ?_, ?_, ?_, ?_, ?_, ?_, ?_⟩ <;> decide +kernel

/-- A machine about to run INIT on the empty Message. -/
def inInit : State := { at' Phase.init 1 0 0 0 with msgLen := 0 }

theorem inInit_inv : State.Inv inInit where
  msgWf := by decide
  pWf := by decide
  digWf := by decide
  msgBelow := by decide
  pBelow := by decide
  digBelow := by decide
  phaseLegal := by decide
  errLegal := by decide
  seq := by
    refine ⟨?_, ?_, ?_, ?_, ?_, ?_, ?_, ?_, ?_, ?_, ?_⟩ <;> decide

theorem witness_StepKeepsTheInvariant : ∃ s t : State, State.Inv s ∧ step s = .next t ∧ s ≠ t :=
  ⟨inInit, { inInit with L := 0, H := ivTable, plen := 0, j := 0, phase := Phase.padMark }, inInit_inv, by rfl, by decide⟩

theorem witness_EngineStopsOnlyOnUnwrittenMessage : ∃ s u : State,
    State.Inv s ∧ s.nextCode = some (.phase s.phase) ∧ s.phase = 6 ∧
    State.Inv u ∧ u.nextCode = some (.phase u.phase) ∧ u.phase = 2 ∧ u.j < u.L ∧ u.peek .msg u.j = none :=
  ⟨inWload, at' Phase.padCopy 1 0 0 0, inWload_inv, by decide, by decide,
    ⟨by decide, by decide, by decide, by decide, by decide, by decide, by decide, by decide,
      by refine ⟨?_, ?_, ?_, ?_, ?_, ?_, ?_, ?_, ?_, ?_, ?_⟩ <;> decide⟩,
    by decide⟩

theorem witness_OnlyNamedWritersWrite : ∃ s t : State, exec .feed s = .next t ∧ t.H ≠ s.H :=
  ⟨at' Phase.feed 1 0 0 0, { at' Phase.feed 1 0 0 0 with
    H := feedForward State.reset.H State.reset.v, phase := Phase.finalize }, by rfl, by decide⟩

theorem witness_EngineFollowsTheTransitionTable : ∃ s t : State, engineTurn s = .next t ∧ s.phase ≠ t.phase :=
  ⟨at' Phase.loadv 1 0 0 0, { at' Phase.loadv 1 0 0 0 with
    v := State.reset.H.toWorking, t := 0, phase := Phase.round }, by rfl, by decide⟩

theorem witness_PathDependsOnLengthOnly : ∃ s u s' u' : State, s.agenda = [] ∧ u.agenda = [] ∧ s.sameControl u ∧
    s.msg ≠ u.msg ∧ run 1 s = .next s' ∧ run 1 u = .next u' :=
  ⟨{ at' Phase.padCopy 1 0 0 0 with msg := aaa 1 }, { at' Phase.padCopy 1 0 0 0 with msg := [(0, 0x62)] },
    { at' Phase.padCopy 1 0 0 0 with msg := aaa 1, p := [(0, 0x61)], phase := Phase.padMark },
    { at' Phase.padCopy 1 0 0 0 with msg := [(0, 0x62)], p := [(0, 0x62)], phase := Phase.padMark },
    rfl, rfl, by decide, by decide, by rfl, by rfl⟩

/-- A machine in DONE with a Message, a padding and a digest of one byte each to read, about to be read. -/
def inRead (m : HostMove) : State :=
  { at' Phase.done 1 0 0 0 with
    msg := aaa 1, p := aaa 1, dig := aaa 1, msgLenWritten := true, agenda := [.host m] }

theorem witness_PortReadsHaveNoSideEffect :
    (∃ t, step (inRead .readStatus) = .next t) ∧ (∃ t, step (inRead .readMsgLen) = .next t) ∧
    (∃ t, step (inRead .readPlen) = .next t) ∧ (∃ t, step (inRead (.readMsg 0)) = .next t) ∧
    (∃ t, step (inRead (.readP 0)) = .next t) ∧ ∃ t, step (inRead (.readDig 0)) = .next t :=
  ⟨⟨_, rfl⟩, ⟨_, rfl⟩, ⟨_, rfl⟩, ⟨_, rfl⟩, ⟨_, rfl⟩, _, rfl⟩

theorem witness_PortReadsAreAlwaysAnswered : 1023 < State.reset.par.msgCap ∧ 1151 < State.reset.par.padCap ∧ 127 < 128 := by
  decide

theorem witness_ReadsOutsideTheWindowAreUnspecified : ∃ s u : State,
    s.phase ≠ 12 ∧ s.peek .msg 1023 = none ∧ 1023 < s.par.msgCap ∧ s.msgLenWritten = false ∧ s.par.msgCap ≤ 1024 ∧
    s.par.padCap ≤ 1152 ∧ u.phase = 12 ∧ u.op = 1 ∧ u.plen ≤ 128 ∧ 128 < u.par.padCap :=
  ⟨State.reset, { State.reset with phase := 12, op := 1, plen := 128 }, by decide⟩

/-- A machine whose DIGEST has ended. -/
def inDone : State := { inWload with phase := 12, dig := aaa 128 }

theorem inDone_inv : State.Inv inDone where
  msgWf := by decide
  pWf := by decide +kernel
  digWf := by decide +kernel
  msgBelow := by decide
  pBelow := by decide +kernel
  digBelow := by decide +kernel
  phaseLegal := by decide
  errLegal := by decide
  seq := by
    refine ⟨?_, ?_, ?_, ?_, ?_, ?_, ?_, ?_, ?_, ?_, ?_⟩ <;> decide +kernel

theorem witness_ResultsAreReadableWhenDone : ∃ s : State, State.Inv s ∧ s.phase = 12 ∧ s.op = 0 ∧ s.plen = 128 :=
  ⟨inDone, inDone_inv, by decide⟩

theorem witness_HostWritesMessageWhenQuiescent : ∃ s u x : State,
    1023 < s.par.msgCap ∧ isQuiescent s.phase = true ∧ 1023 < u.par.msgCap ∧ isBusy u.phase = true ∧
    x.par.msgCap = 0 ∧ isQuiescent x.phase = true :=
  ⟨State.reset, inWload, State.resetWith ⟨0⟩, by decide⟩

theorem witness_MessageIsReadableInEveryPhase : ∃ s : State, isBusy s.phase = true ∧ s.msgLenWritten = true ∧
    1023 < s.par.msgCap ∧ s.peek .msg 1023 = some 0x62#8 :=
  ⟨{ at' Phase.round 3 0 0 40 with msg := [(1023, 0x62)], msgLenWritten := true }, by decide⟩

theorem witness_MessageKeepsTheLastValueWritten :
    (∃ t, step { State.reset with agenda := [.host (.writeMsg 1023 7)] } = .next t ∧ t.peek .msg 1023 = some 7) ∧
    (∃ t, step { State.reset with agenda := [.host (.writeMsgLen 9)] } = .next t ∧ t.msgLen = 9) ∧
    ∃ t, step { State.reset with agenda := [.reset], msg := aaa 1 } = .next t ∧ t.peek .msg 0 = none :=
  ⟨⟨_, rfl, rfl⟩, ⟨_, rfl, rfl⟩, _, rfl, rfl⟩

theorem witness_WaitPollsUntilDoneOrError : ∃ s u : State,
    s.agenda = [.wait] ∧ s.phase = 12 ∧ u.agenda = [.wait] ∧ u.phase ≠ 12 ∧ u.phase ≠ 13 :=
  ⟨{ State.reset with phase := 12, agenda := [.wait] }, { inWload with agenda := [.wait] }, rfl, rfl, rfl, by decide⟩

theorem witness_RotateAndShift : 0 < 1 ∧ 1 < 64 ∧ 0 < 63 ∧ 63 < 64 := by decide

theorem witness_ScheduleRecurrence : (List.replicate 128 (0 : Byte)).length = 128 := List.length_replicate

theorem witness_PaddingStageComputesPad : ∃ s : State, s.agenda = [] ∧ s.phase = 1 ∧ s.msgLen = [0x61#8].length ∧
    [0x61#8].length ≤ s.par.msgCap ∧ s.holds .msg 0 [0x61#8] :=
  ⟨{ ready 1 1 with agenda := [] }, by decide⟩

theorem witness_ScheduleStageComputesSched : ∃ (s : State) (B : List Byte), s.agenda = [] ∧ s.phase = 6 ∧ s.t = 0 ∧
    B.length = 128 ∧ 128 * s.i + 128 ≤ s.par.padCap ∧ s.holds .p (128 * s.i) B :=
  ⟨inWload, List.replicate 128 0, by decide +kernel⟩

theorem witness_BlockStepsComputeCompress : ∃ (s : State) (B : List Byte), s.agenda = [] ∧ s.phase = 6 ∧ s.t = 0 ∧
    B.length = 128 ∧ 128 * s.i + 128 ≤ s.par.padCap ∧ s.holds .p (128 * s.i) B ∧ s.N ≤ s.i + 1 :=
  ⟨inWload, List.replicate 128 0, by decide +kernel⟩

theorem witness_DigestOperationComputesDigest : ∃ (s : State) (M : List Byte),
    s.agenda = [.host (.writeCmd 0x01#8)] ∧ isQuiescent s.phase = true ∧ s.msgLen = M.length ∧
    M.length ≤ s.par.msgCap ∧ s.holds .msg 0 M :=
  ⟨ready 1 13, [0x61], by decide⟩

theorem witness_PaddedOperationComputesPad : ∃ (s : State) (M : List Byte),
    s.agenda = [.host (.writeCmd 0x02#8)] ∧ isQuiescent s.phase = true ∧ s.msgLen = M.length ∧
    M.length ≤ s.par.msgCap ∧ s.holds .msg 0 M :=
  ⟨ready 2 12, [0x61], by decide⟩

theorem witness_OperationIsBusyUntilItEnds : ∃ (s u : State) (M : List Byte),
    s.agenda = [.host (.writeCmd 0x01#8)] ∧ u.agenda = [.host (.writeCmd 0x02#8)] ∧ isQuiescent s.phase = true ∧
    isQuiescent u.phase = true ∧ s.msgLen = M.length ∧ u.msgLen = M.length ∧ M.length ≤ s.par.msgCap ∧
    M.length ≤ u.par.msgCap ∧ s.holds .msg 0 M ∧ u.holds .msg 0 M ∧
    292 < 1 + digestSteps M.length ∧ 129 < 1 + paddedSteps M.length :=
  ⟨ready 1 0, ready 2 0, [0x61], by decide⟩

theorem witness_DigestIsStateless : ∃ s u : State, s.agenda = [.host (.writeCmd 0x01#8)] ∧
    u.agenda = [.host (.writeCmd 0x01#8)] ∧ isQuiescent s.phase = true ∧ isQuiescent u.phase = true ∧
    s.msgLen = u.msgLen ∧ s.msgLen ≤ s.par.msgCap ∧ u.msgLen ≤ u.par.msgCap ∧ s.written .msg s.msgLen ∧
    (∀ a, a < s.msgLen → s.peek .msg a = u.peek .msg a) ∧ s ≠ u :=
  ⟨ready 1 0, { ready 1 13 with err := 3, L := 9 }, by decide +kernel⟩

theorem witness_DigestScriptReturnsDigest : ∃ (s : State) (M : List Byte),
    s.agenda = scriptTurns (digestScript M) ∧ isQuiescent s.phase = true ∧ M.length ≤ s.par.msgCap :=
  ⟨{ State.reset with agenda := scriptTurns (digestScript [0x61, 0x62, 0x63]) }, [0x61, 0x62, 0x63], rfl, by decide⟩

theorem witness_PaddedScriptReturnsPadding : ∃ (s : State) (M : List Byte),
    s.agenda = scriptTurns (paddedScript M) ∧ isQuiescent s.phase = true ∧ M.length ≤ s.par.msgCap :=
  ⟨{ State.reset with agenda := scriptTurns (paddedScript [0x61, 0x62, 0x63]) }, [0x61, 0x62, 0x63], rfl, by decide⟩

end Sys2Proof.Tests
end

/-! PROOF. Byte order (spec/00_scope.md R10, R62). A byte list is read as a number in base 256, its last byte the lowest digit: `be64`
appends a digit, so up to eight bytes its value is that number; digits are unique, so one inverse law gives the other. -/

namespace Sys2Proof.Machine

/-- One more byte is one more low digit in base 256. -/
theorem be64_append_singleton (bs : List Byte) (b : Byte) : be64 (bs ++ [b]) = be64 bs * 256#64 + b.setWidth 64 := by
  simp [be64]

/-- The digits of a byte list in base 256, the lowest first, as `Nat.ofDigits` takes them. -/
def byteDigits (bs : List Byte) : List Nat := bs.reverse.map BitVec.toNat

@[simp] theorem byteDigits_length (bs : List Byte) : (byteDigits bs).length = bs.length := by simp [byteDigits]

@[simp] theorem byteDigits_append_singleton (bs : List Byte) (b : Byte) :
    byteDigits (bs ++ [b]) = b.toNat :: byteDigits bs := by simp [byteDigits]

theorem lt_of_mem_byteDigits {bs : List Byte} {d : Nat} (h : d ∈ byteDigits bs) : d < 256 := by
  obtain ⟨b, -, rfl⟩ := List.mem_map.mp h
  exact b.isLt

theorem ofDigits_byteDigits_lt (bs : List Byte) : Nat.ofDigits 256 (byteDigits bs) < 256 ^ bs.length := by
  simpa using Nat.ofDigits_lt_base_pow_length (by decide) fun _ => lt_of_mem_byteDigits (bs := bs)

theorem byteDigits_injective : Function.Injective byteDigits := fun _ _ h =>
  List.reverse_injective (List.map_injective_iff.mpr (fun _ _ => BitVec.eq_of_toNat_eq) h)

/-- Up to eight bytes nothing is lost mod 2^64: `be64` is the number the bytes write in base 256. -/
theorem be64_toNat (bs : List Byte) (h : bs.length ≤ 8) : (be64 bs).toNat = Nat.ofDigits 256 (byteDigits bs) := by
  induction bs using List.reverseRecOn with
  | nil => rfl
  | append_singleton bs b ih =>
    have hlen : bs.length ≤ 7 := by simpa [Nat.lt_succ_iff] using h
    have hbound : Nat.ofDigits 256 (byteDigits bs) < 256 ^ 7 :=
      (ofDigits_byteDigits_lt bs).trans_le (Nat.pow_le_pow_right (by decide) hlen)
    have hb := b.isLt
    simp only [be64_append_singleton, byteDigits_append_singleton, Nat.ofDigits_cons, BitVec.toNat_add, BitVec.toNat_mul,
      BitVec.toNat_setWidth, BitVec.toNat_ofNat, ih (by omega)]
    omega

/-- Eight bytes, written out. -/
theorem be64_toNat_eight (b0 b1 b2 b3 b4 b5 b6 b7 : Byte) :
    (be64 [b0, b1, b2, b3, b4, b5, b6, b7]).toNat = b0.toNat * 2 ^ 56 + b1.toNat * 2 ^ 48 + b2.toNat * 2 ^ 40 +
      b3.toNat * 2 ^ 32 + b4.toNat * 2 ^ 24 + b5.toNat * 2 ^ 16 + b6.toNat * 2 ^ 8 + b7.toNat := by
  rw [be64_toNat _ (by simp)]
  simp only [byteDigits, List.reverse_cons, List.reverse_nil, List.nil_append, List.cons_append, List.map_cons, List.map_nil,
    Nat.ofDigits_cons, Nat.ofDigits_nil]
  omega

/-- Two byte lists of one length, at most eight, that `be64` reads as the same word are the same: the digits of a number are unique. -/
theorem be64_inj {as bs : List Byte} (hlen : as.length = bs.length) (h8 : bs.length ≤ 8) (h : be64 as = be64 bs) : as = bs := by
  have hvalue : Nat.ofDigits 256 (byteDigits as) = Nat.ofDigits 256 (byteDigits bs) := by
    rw [← be64_toNat as (hlen.trans_le h8), ← be64_toNat bs h8, h]
  exact byteDigits_injective (Nat.ofDigits_inj_of_len_eq (by decide) (by simpa using hlen)
    (fun _ => lt_of_mem_byteDigits) (fun _ => lt_of_mem_byteDigits) hvalue)

/-- The bytes of a word, written out. -/
theorem bytesBe64_eq (x : Word) : bytesBe64 x =
    [x.extractLsb' 56 8, x.extractLsb' 48 8, x.extractLsb' 40 8, x.extractLsb' 32 8,
      x.extractLsb' 24 8, x.extractLsb' 16 8, x.extractLsb' 8 8, x.extractLsb' 0 8] := rfl

/-- A word is the sum of its eight digits in base 256. -/
@[simp] theorem be64_bytesBe64 (x : Word) : be64 (bytesBe64 x) = x := by
  have hx := x.isLt
  apply BitVec.eq_of_toNat_eq
  simp only [bytesBe64_eq, be64_toNat_eight, BitVec.extractLsb'_toNat, Nat.shiftRight_eq_div_pow]
  omega

/-- Both lists have eight bytes and `be64` reads them as the same word. -/
theorem bytesBe64_be64 {bs : List Byte} (h : bs.length = 8) : bytesBe64 (be64 bs) = bs :=
  be64_inj (by simp [h]) h.le (be64_bytesBe64 (be64 bs))

/-- Settles O40: the value of eight bytes, and the two inverse laws. -/
theorem bigEndianWords : Obligations.BigEndianWords :=
  ⟨fun b0 b1 b2 b3 b4 b5 b6 b7 => ⟨be64_toNat_eight b0 b1 b2 b3 b4 b5 b6 b7, bytesBe64_be64 rfl⟩,
    be64_bytesBe64⟩

end Sys2Proof.Machine

/-! PROOF. What a step can be (spec/00_scope.md R5), said once: an engine's turn, a move of the host, the end of a `WAIT`, or reset. -/

namespace Sys2Proof.Machine

/-- What a step was that answered a next state. Before an engine's turn at most the agenda has changed. -/
theorem step_next {s t : State} (h : step s = .next t) :
    (∃ agenda, engineTurn { s with agenda := agenda } = .next t) ∨
    (∃ m rest, s.agenda = .host m :: rest ∧ hostTurn m { s with agenda := rest } = .next t) ∨
    (∃ rest, t = State.observe { s with agenda := rest } (.status (statusWord s))) ∨
    (∃ rest, s.agenda = .reset :: rest ∧ t = State.resetEvent { s with agenda := rest }) := by
  match hs : s.agenda with
  | [] => exact .inl ⟨s.agenda, by rwa [step_engine hs] at h⟩
  | .engine :: rest => exact .inl ⟨rest, by rwa [step_engine_cons hs] at h⟩
  | .host m :: rest => exact .inr (.inl ⟨m, rest, rfl, by rwa [step_host hs] at h⟩)
  | .wait :: rest =>
    rw [step_wait hs, waitTurn] at h
    split at h
    · cases h; exact .inr (.inr (.inl ⟨rest, rfl⟩))
    · exact .inl ⟨s.agenda, h⟩
  | .reset :: rest =>
    rw [step_reset hs] at h
    cases h; exact .inr (.inr (.inr ⟨rest, rfl, rfl⟩))

/-- An engine's turn that answers a next state was the micro-operation of its phase code. -/
theorem engineTurn_next {s t : State} (h : engineTurn s = .next t) :
    ∃ i, decode (.phase s.phase) = .ok i ∧ exec i s = .next t := by
  unfold engineTurn runCode at h
  split at h
  next i hd => exact ⟨i, hd, h⟩
  next hd =>
    simp only [decode, decodePhase] at hd
    split at hd <;> cases hd
  next => cases h

/-- A port read gives one value, the port's own where it has one, and touches nothing but the host's side. -/
theorem hostReadPort_next {value : Option Reading} {u : Nat → Reading} {s t : State} (h : hostReadPort value u s = .next t) :
    ∃ r, t = { s with readings := r :: s.readings, unspecifiedReads := t.unspecifiedReads } ∧ ∀ x, value = some x → r = x := by
  cases value with
  | some r => cases h; exact ⟨r, rfl, fun _ hx => Option.some.inj hx⟩
  | none => cases h; exact ⟨u s.unspecifiedReads, rfl, nofun⟩

/-- The read of a byte gives one value, the cell's own inside the window, and touches nothing but the host's side. -/
theorem hostReadCell_frame {sp : Space} {window : Bool} {a : Nat} {r : Byte → Reading} {s t : State}
    (h : hostReadCell sp window a r s = .next t) :
    ∃ x, t = { s with readings := x :: s.readings, unspecifiedReads := t.unspecifiedReads } ∧
      ∀ b, window = true → s.peek sp a = some b → x = r b := by
  obtain ⟨-, ⟨-, b, hb, rfl⟩ | ⟨hw, rfl⟩⟩ := hostReadCell_next h
  · exact ⟨r b, rfl, fun b' _ hb' => by rw [Option.some.inj (hb.symm.trans hb')]⟩
  · exact ⟨_, rfl, fun b' hw' hb' => by simp [hw', hb'] at hw⟩

/-- A reading move of the host, when it is answered, gives the host one value and touches nothing else. Inside the port's window the
value is the one the port stands for (10_state.md R40). -/
theorem hostTurn_read_next {m : HostMove} {s t : State} (hm : HostMove.isRead m = true) (h : hostTurn m s = .next t) :
    ∃ r, t = { s with readings := r :: s.readings, unspecifiedReads := t.unspecifiedReads } ∧
      (m = .readStatus → r = .status (statusWord s)) ∧
      (m = .readMsgLen → s.msgLenWritten = true → r = .msgLen s.msgLen) ∧
      (m = .readPlen → s.phase = 12 → r = .plen s.plen) ∧
      (∀ a b, m = .readMsg a → s.peek .msg a = some b → r = .msg a b) ∧
      (∀ a b, m = .readP a → s.phase = 12 → a < s.plen → s.peek .p a = some b → r = .p a b) ∧
      (∀ a b, m = .readDig a → s.phase = 12 → s.op = 0 → s.peek .dig a = some b → r = .dig a b) := by
  cases m with
  | writeMsg | writeMsgLen | writeCmd => cases hm
  | readStatus =>
    cases h
    exact ⟨_, rfl, fun _ => rfl, nofun, nofun, nofun, nofun, nofun⟩
  | readMsgLen =>
    obtain ⟨r, ht, hr⟩ := hostReadPort_next h
    exact ⟨r, ht, nofun, fun _ hw => hr _ (by simp [hw]), nofun, nofun, nofun, nofun⟩
  | readPlen =>
    obtain ⟨r, ht, hr⟩ := hostReadPort_next h
    exact ⟨r, ht, nofun, nofun, fun _ hp => hr _ (by simp [isDone, hp]), nofun, nofun, nofun⟩
  | readMsg a =>
    obtain ⟨r, ht, hr⟩ := hostReadCell_frame h
    exact ⟨r, ht, nofun, nofun, nofun, fun _ b ha => by cases ha; exact hr b rfl, nofun, nofun⟩
  | readP a =>
    obtain ⟨r, ht, hr⟩ := hostReadCell_frame h
    refine ⟨r, ht, nofun, nofun, nofun, nofun, fun _ b ha hp hlt => ?_, nofun⟩
    cases ha; exact hr b (by simp [isDone, hp, hlt])
  | readDig a =>
    obtain ⟨r, ht, hr⟩ := hostReadCell_frame h
    refine ⟨r, ht, nofun, nofun, nofun, nofun, nofun, fun _ b ha hp hop => ?_⟩
    cases ha; exact hr b (by simp [isDone, hp, hop])

/-- What a move of the host was that answered a next state: a write to `MSG` or `MSG_LEN`; a write to `CMD` that was ignored, started an
operation, or was an illegal command; or a read. -/
theorem hostTurn_next {m : HostMove} {s t : State} (h : hostTurn m s = .next t) :
    (∃ a b, m = .writeMsg a b ∧ a < s.par.msgCap ∧ t = { s with msg := Memory.write s.msg a b }) ∨
    (∃ n, m = .writeMsgLen n ∧ t = { s with msgLen := n, msgLenWritten := true }) ∨
    t = s ∨ (∃ op, t = s.start op) ∨ t = s.clearError.raise .illegalCommand ∨
    ∃ r n, t = { s with readings := r :: s.readings, unspecifiedReads := n } := by
  cases m with
  | writeMsg a b =>
    obtain ⟨ha, -, rfl⟩ := hostWriteMsg_next.mp h
    exact .inl ⟨a, b, rfl, ha, rfl⟩
  | writeMsgLen n =>
    obtain ⟨-, rfl⟩ := hostWriteMsgLen_next.mp h
    exact .inr (.inl ⟨n, rfl, rfl⟩)
  | writeCmd c =>
    refine .inr (.inr ?_)
    replace h : runCode (.cmd c) s = .next t := h
    obtain ⟨-, rfl⟩ | ⟨-, -, rfl⟩ := onCommand_next (runCode_cmd c s ▸ h)
    · exact .inl rfl
    · split
      · exact .inr (.inl ⟨_, rfl⟩)
      · split
        · exact .inr (.inl ⟨_, rfl⟩)
        · exact .inr (.inr (.inl rfl))
  | readStatus | readMsgLen | readMsg | readPlen | readP | readDig =>
    obtain ⟨r, ht, -⟩ := hostTurn_read_next rfl h
    exact .inr (.inr (.inr (.inr (.inr ⟨r, _, ht⟩))))

end Sys2Proof.Machine

/-! PROOF. The invariant (spec/10_state.md R27, R28, R46; 20_memory.md R60, R61): what it says of the memories, what it says phase by
phase, and that every step keeps it. -/

namespace Sys2Proof.Machine

/-! ## The memories -/

/-- What `State.Inv` says of the three memories: canonical and inside their spaces (20_memory.md R60). -/
structure MemoriesFit (par : Params) (msg p dig : Memory) : Prop where
  msgWf : Memory.wf msg = true
  pWf : Memory.wf p = true
  digWf : Memory.wf dig = true
  msgBelow : Memory.below msg par.msgCap
  pBelow : Memory.below p par.padCap
  digBelow : Memory.below dig 128

/-- The three memories of a state fit. -/
abbrev State.memoriesFit (s : State) : Prop := MemoriesFit s.par s.msg s.p s.dig

theorem State.Inv.memoriesFit {s : State} (h : s.Inv) : s.memoriesFit :=
  ⟨h.msgWf, h.pWf, h.digWf, h.msgBelow, h.pBelow, h.digBelow⟩

theorem memoriesFit_empty (par : Params) : MemoriesFit par [] [] [] :=
  ⟨rfl, rfl, rfl, nofun, nofun, nofun⟩

section
variable {par : Params} {msg p dig : Memory} {a : Nat}

theorem MemoriesFit.write_msg (h : MemoriesFit par msg p dig) (ha : a < par.msgCap) (b : Byte) :
    MemoriesFit par (Memory.write msg a b) p dig :=
  { h with msgWf := Memory.wf_write h.msgWf a b, msgBelow := Memory.below_write b h.msgBelow ha }

theorem MemoriesFit.write_p (h : MemoriesFit par msg p dig) (ha : a < par.padCap) (b : Byte) :
    MemoriesFit par msg (Memory.write p a b) dig :=
  { h with pWf := Memory.wf_write h.pWf a b, pBelow := Memory.below_write b h.pBelow ha }

end

/-- A space written below `n` is, after a write at `n`, written below `n + 1`. -/
theorem Memory.isSome_read_write_succ {m : Memory} {n : Nat} (b : Byte) (h : ∀ a, a < n → (Memory.read m a).isSome = true) :
    ∀ a, a < n + 1 → (Memory.read (Memory.write m n b) a).isSome = true := by
  intro a ha
  rw [Memory.read_write]
  split
  · rfl
  · exact h a (by omega)

/-! ## The phases -/

section
variable {s : State}

/-- Outside DONE a quiescent phase bounds nothing, and neither does INIT. -/
theorem State.seqInv_unbounded (h : s.phase = Phase.idle ∨ s.phase = Phase.init ∨ s.phase = Phase.error) : s.seqInv := by
  rcases h with h | h | h <;> simp [State.seqInv, h]

theorem State.seqInv_padCopy (h : s.phase = Phase.padCopy) :
    s.seqInv ↔ s.L ≤ s.par.msgCap ∧ s.j < s.L ∧ s.written .p s.j := by
  simp [State.seqInv, h]

theorem State.seqInv_padMark (h : s.phase = Phase.padMark) : s.seqInv ↔ s.L ≤ s.par.msgCap ∧ s.written .p s.L := by
  simp [State.seqInv, h]

theorem State.seqInv_padZero (h : s.phase = Phase.padZero) :
    s.seqInv ↔ s.L ≤ s.par.msgCap ∧ s.k.toNat = padZeros s.L ∧ s.j < s.k.toNat ∧ s.written .p (s.L + 1 + s.j) := by
  simp [State.seqInv, h]

theorem State.seqInv_padLen (h : s.phase = Phase.padLen) :
    s.seqInv ↔
      s.L ≤ s.par.msgCap ∧ s.k.toNat = padZeros s.L ∧ s.j ≤ 15 ∧ s.written .p (s.L + 1 + s.k.toNat + s.j) := by
  simp [State.seqInv, h]

theorem State.seqInv_wload (h : s.phase = Phase.wload) : s.seqInv ↔ s.inBlock ∧ s.t.toNat ≤ 15 := by
  simp [State.seqInv, h]

theorem State.seqInv_wexp (h : s.phase = Phase.wexp) : s.seqInv ↔ s.inBlock ∧ 16 ≤ s.t.toNat ∧ s.t.toNat ≤ 79 := by
  simp [State.seqInv, h]

theorem State.seqInv_loadv (h : s.phase = Phase.loadv) : s.seqInv ↔ s.inBlock := by
  simp [State.seqInv, h]

theorem State.seqInv_round (h : s.phase = Phase.round) : s.seqInv ↔ s.inBlock ∧ s.t.toNat ≤ 79 := by
  simp [State.seqInv, h]

theorem State.seqInv_feed (h : s.phase = Phase.feed) : s.seqInv ↔ s.inBlock := by
  simp [State.seqInv, h]

theorem State.seqInv_finalize (h : s.phase = Phase.finalize) : s.seqInv ↔ s.paddedReady ∧ s.op = 0 := by
  simp [State.seqInv, h]

theorem State.seqInv_done (h : s.phase = Phase.done) :
    s.seqInv ↔ s.plen % 128 = 0 ∧ 0 < s.plen ∧ s.plen ≤ s.par.padCap ∧ s.written .p s.plen ∧
      (s.op = 0 → s.written .dig 128) := by
  simp [State.seqInv, h]

theorem State.Inv.of_memoriesFit (hm : s.memoriesFit) (hp : s.phase.toNat ≤ 13)
    (he : if s.phase = Phase.error then s.err = 1 ∨ s.err = 3 else s.err = 0) (hs : s.seqInv) : s.Inv :=
  ⟨hm.msgWf, hm.pWf, hm.digWf, hm.msgBelow, hm.pBelow, hm.digBelow, hp, he, hs⟩

/-- Outside ERROR the invariant is its memories, an `ERR` of 0 and the phase's own bounds. -/
theorem State.Inv.of_not_error (hm : s.memoriesFit) (hp : s.phase.toNat ≤ 12) (he : s.err = 0) (hs : s.seqInv) : s.Inv := by
  have hne : s.phase ≠ Phase.error := fun h => by simp [h] at hp
  exact .of_memoriesFit hm (by omega) (by rwa [if_neg hne]) hs

/-- In ERROR the invariant is its memories and an `ERR` of 1 or 3. -/
theorem State.Inv.of_error (hm : s.memoriesFit) (hp : s.phase = Phase.error) (he : s.err = 1 ∨ s.err = 3) : s.Inv :=
  .of_memoriesFit hm (by simp [hp]) (by rwa [if_pos hp]) (State.seqInv_unbounded (.inr (.inr hp)))

theorem State.Inv.err_eq_zero (h : s.Inv) (hp : s.phase ≠ Phase.error) : s.err = 0 := by
  have := h.errLegal
  rwa [if_neg hp] at this

end

/-! ## Arithmetic of the padded length and of the counter `t` -/

/-- The padded Message is a positive number of whole blocks (41_padding.md R143). -/
theorem padLength_mod (L : Nat) : padLength L % 128 = 0 := by
  unfold padLength padZeros
  omega

theorem padLength_pos (L : Nat) : 0 < padLength L := by
  unfold padLength
  omega

theorem padLength_div_pos (L : Nat) : 0 < padLength L / 128 := by
  unfold padLength padZeros
  omega

/-- Below its end the counter `t` counts up without wrapping (10_state.md R27). -/
theorem toNat_succ_le {t last : BitVec 7} (h : t.toNat ≤ last.toNat) (hne : t ≠ last) :
    (t + 1).toNat = t.toNat + 1 ∧ t.toNat + 1 ≤ last.toNat := by
  have := last.isLt
  have hlt : t.toNat ≠ last.toNat := fun h => hne (BitVec.eq_of_toNat_eq h)
  rw [BitVec.toNat_add, show (1 : BitVec 7).toNat = 1 from rfl]
  omega

/-! ## The engine keeps the invariant, one lemma per micro-operation -/

section
variable {s t : State}

theorem execInit_inv (hi : s.Inv) (hp : s.phase = Phase.init) (h : execInit s = .next t) : t.Inv := by
  have he : s.err = 0 := hi.err_eq_zero (by simp [hp])
  obtain ⟨-, rfl⟩ | ⟨hL, rfl⟩ := execInit_next h
  · exact .of_error hi.memoriesFit rfl (.inl rfl)
  · by_cases h0 : s.msgLen > 0
    · simp only [if_pos h0]
      exact .of_not_error hi.memoriesFit (by simp) he ((State.seqInv_padCopy rfl).mpr ⟨hL, h0, nofun⟩)
    · simp only [if_neg h0]
      refine .of_not_error hi.memoriesFit (by simp) he ((State.seqInv_padMark rfl).mpr ⟨hL, fun a (ha : a < s.msgLen) => ?_⟩)
      omega

theorem execPadCopy_inv (hi : s.Inv) (hp : s.phase = Phase.padCopy) (h : execPadCopy s = .next t) : t.Inv := by
  have he : s.err = 0 := hi.err_eq_zero (by simp [hp])
  obtain ⟨hL, hj, hw⟩ := (State.seqInv_padCopy hp).mp hi.seq
  obtain ⟨b, -, -, ha, rfl⟩ := execPadCopy_next h
  have hm := hi.memoriesFit.write_p ha b
  have hw' := Memory.isSome_read_write_succ b hw
  split
  next hlast =>
    rw [hlast] at hw'
    exact .of_not_error hm (by simp) he ((State.seqInv_padMark rfl).mpr ⟨hL, hw'⟩)
  next hmore =>
    exact .of_not_error hm (by simp [hp]) he (Iff.mpr (State.seqInv_padCopy hp) ⟨hL, lt_of_le_of_ne hj hmore, hw'⟩)

theorem execPadMark_inv (hi : s.Inv) (hp : s.phase = Phase.padMark) (h : execPadMark s = .next t) : t.Inv := by
  have he : s.err = 0 := hi.err_eq_zero (by simp [hp])
  obtain ⟨hL, hw⟩ := (State.seqInv_padMark hp).mp hi.seq
  obtain ⟨ha, rfl⟩ := execPadMark_next h
  have hm := hi.memoriesFit.write_p ha 0x80#8
  have hw' := Memory.isSome_read_write_succ 0x80#8 hw
  have hk := padZeros_toNat s.L
  by_cases h0 : padZeros s.L > 0
  · simp only [if_pos h0]
    exact .of_not_error hm (by simp) he ((State.seqInv_padZero rfl).mpr ⟨hL, hk, hk.symm ▸ h0, hw'⟩)
  · simp only [if_neg h0]
    have hk0 : s.L + 1 + (BitVec.ofNat 7 (padZeros s.L)).toNat + 0 = s.L + 1 := by omega
    exact .of_not_error hm (by simp) he ((State.seqInv_padLen rfl).mpr ⟨hL, hk, Nat.zero_le _, hk0.symm ▸ hw'⟩)

theorem execPadZero_inv (hi : s.Inv) (hp : s.phase = Phase.padZero) (h : execPadZero s = .next t) : t.Inv := by
  have he : s.err = 0 := hi.err_eq_zero (by simp [hp])
  obtain ⟨hL, hk, hj, hw⟩ := (State.seqInv_padZero hp).mp hi.seq
  obtain ⟨ha, rfl⟩ := execPadZero_next h
  have hm := hi.memoriesFit.write_p ha 0#8
  have hw' := Memory.isSome_read_write_succ 0#8 hw
  split
  next hlast =>
    rw [Nat.add_assoc, hlast] at hw'
    exact .of_not_error hm (by simp) he ((State.seqInv_padLen rfl).mpr ⟨hL, hk, Nat.zero_le _, hw'⟩)
  next hmore =>
    exact .of_not_error hm (by simp [hp]) he
      (Iff.mpr (State.seqInv_padZero hp) ⟨hL, hk, lt_of_le_of_ne hj hmore, hw'⟩)

/-- A whole PaddedMessage gives DONE what it asks of `P` and `PLEN`. -/
theorem State.paddedReady_done (h : s.paddedReady) :
    s.plen % 128 = 0 ∧ 0 < s.plen ∧ s.plen ≤ s.par.padCap ∧ s.written .p s.plen := by
  obtain ⟨hL, hplen, hw⟩ := h
  refine ⟨?_, ?_, ?_, hw⟩ <;> rw [hplen]
  · exact padLength_mod s.L
  · exact padLength_pos s.L
  · exact padLength_le_padCap hL

theorem execPadLen_inv (hi : s.Inv) (hp : s.phase = Phase.padLen) (h : execPadLen s = .next t) : t.Inv := by
  have he : s.err = 0 := hi.err_eq_zero (by simp [hp])
  obtain ⟨hL, hk, hj, hw⟩ := (State.seqInv_padLen hp).mp hi.seq
  obtain ⟨b, -, ha, rfl⟩ := execPadLen_next h
  have hm := hi.memoriesFit.write_p ha b
  have hw' := Memory.isSome_read_write_succ b hw
  split
  next hlast =>
    have hlen : s.paddedLength = padLength s.L := by rw [State.paddedLength, padLength, hk]
    have hend : s.L + 1 + s.k.toNat + s.j + 1 = s.paddedLength := by rw [hlast, State.paddedLength]
    rw [hend] at hw'
    have hready : State.paddedReady { s with p := Memory.write s.p s.lenAddr b, plen := s.paddedLength } := ⟨hL, hlen, hw'⟩
    by_cases hop : s.op = 1
    · simp only [if_pos hop]
      obtain ⟨hmod, hpos, hcap, hwritten⟩ := State.paddedReady_done hready
      exact .of_not_error hm (by simp) he
        ((State.seqInv_done rfl).mpr ⟨hmod, hpos, hcap, hwritten, fun h0 => by simp [hop] at h0⟩)
    · simp only [if_neg hop]
      have hop0 : s.op = 0 := (BitVec.eq_zero_or_eq_one s.op).resolve_right hop
      exact .of_not_error hm (by simp) he
        ((State.seqInv_wload rfl).mpr ⟨⟨hready, hop0, rfl, hlen ▸ padLength_div_pos s.L⟩, by simp⟩)
  next hmore =>
    exact .of_not_error hm (by simp [hp]) he (Iff.mpr (State.seqInv_padLen hp) ⟨hL, hk, lt_of_le_of_ne hj hmore, hw'⟩)

theorem execWload_inv (hi : s.Inv) (hp : s.phase = Phase.wload) (h : execWload s = .next t) : t.Inv := by
  have he : s.err = 0 := hi.err_eq_zero (by simp [hp])
  obtain ⟨hb, ht⟩ := (State.seqInv_wload hp).mp hi.seq
  obtain ⟨bs, -, -, -, rfl⟩ := execWload_next h
  split
  next hlast => exact .of_not_error hi.memoriesFit (by simp) he ((State.seqInv_wexp rfl).mpr ⟨hb, by simp, by simp⟩)
  next hmore =>
    obtain ⟨hsucc, hle⟩ := toNat_succ_le (last := 15) ht hmore
    exact .of_not_error hi.memoriesFit (by simp [hp]) he (Iff.mpr (State.seqInv_wload hp) ⟨hb, hsucc.le.trans hle⟩)

theorem execWexp_inv (hi : s.Inv) (hp : s.phase = Phase.wexp) (h : execWexp s = .next t) : t.Inv := by
  have he : s.err = 0 := hi.err_eq_zero (by simp [hp])
  obtain ⟨hb, h16, ht⟩ := (State.seqInv_wexp hp).mp hi.seq
  obtain ⟨-, w2, w7, w15, w16, -, -, -, -, -, rfl⟩ := execWexp_next h
  split
  next hlast => exact .of_not_error hi.memoriesFit (by simp) he ((State.seqInv_loadv rfl).mpr hb)
  next hmore =>
    obtain ⟨hsucc, hle⟩ := toNat_succ_le (last := 79) ht hmore
    exact .of_not_error hi.memoriesFit (by simp [hp]) he
      (Iff.mpr (State.seqInv_wexp hp) ⟨hb, hsucc ▸ Nat.le_succ_of_le h16, hsucc.le.trans hle⟩)

theorem execLoadv_inv (hi : s.Inv) (hp : s.phase = Phase.loadv) (h : execLoadv s = .next t) : t.Inv := by
  have he : s.err = 0 := hi.err_eq_zero (by simp [hp])
  have hb := (State.seqInv_loadv hp).mp hi.seq
  cases execLoadv_next h
  exact .of_not_error hi.memoriesFit (by simp) he ((State.seqInv_round rfl).mpr ⟨hb, by simp⟩)

theorem execRound_inv (hi : s.Inv) (hp : s.phase = Phase.round) (h : execRound s = .next t) : t.Inv := by
  have he : s.err = 0 := hi.err_eq_zero (by simp [hp])
  obtain ⟨hb, ht⟩ := (State.seqInv_round hp).mp hi.seq
  obtain ⟨kt, wt, -, -, rfl⟩ := execRound_next h
  split
  next hlast => exact .of_not_error hi.memoriesFit (by simp) he ((State.seqInv_feed rfl).mpr hb)
  next hmore =>
    obtain ⟨hsucc, hle⟩ := toNat_succ_le (last := 79) ht hmore
    exact .of_not_error hi.memoriesFit (by simp [hp]) he (Iff.mpr (State.seqInv_round hp) ⟨hb, hsucc.le.trans hle⟩)

theorem execFeed_inv (hi : s.Inv) (hp : s.phase = Phase.feed) (h : execFeed s = .next t) : t.Inv := by
  have he : s.err = 0 := hi.err_eq_zero (by simp [hp])
  obtain ⟨hready, hop, hN, -⟩ := (State.seqInv_feed hp).mp hi.seq
  cases execFeed_next h
  split
  next hmore =>
    exact .of_not_error hi.memoriesFit (by simp) he ((State.seqInv_wload rfl).mpr ⟨⟨hready, hop, hN, hmore⟩, by simp⟩)
  next hlast => exact .of_not_error hi.memoriesFit (by simp) he ((State.seqInv_finalize rfl).mpr ⟨hready, hop⟩)

theorem execFinalize_inv (hi : s.Inv) (hp : s.phase = Phase.finalize) (h : execFinalize s = .next t) : t.Inv := by
  have he : s.err = 0 := hi.err_eq_zero (by simp [hp])
  obtain ⟨hready, hop⟩ := (State.seqInv_finalize hp).mp hi.seq
  obtain ⟨m, heq, hdig, -, hwf, hbelow⟩ := execFinalize_eq s
  cases heq.symm.trans h
  have hm : MemoriesFit s.par s.msg s.p m :=
    { hi.memoriesFit with digWf := hwf hi.digWf, digBelow := hbelow 128 hi.digBelow le_rfl }
  obtain ⟨hmod, hpos, hcap, hw⟩ := State.paddedReady_done hready
  refine .of_not_error hm (by simp) he ((State.seqInv_done rfl).mpr ⟨hmod, hpos, hcap, hw, fun _ a ha => ?_⟩)
  have ha' : a < (hexdigest s.H).length := by simpa using ha
  have hread := hdig a ha'
  rw [Nat.zero_add, List.getElem?_eq_getElem ha'] at hread
  exact Option.isSome_iff_exists.mpr ⟨_, hread⟩

/-- The engine's turn keeps the invariant. -/
theorem engineTurn_inv (hi : s.Inv) (h : engineTurn s = .next t) : t.Inv := by
  rcases phase_cases s.phase with hp | hp | hp | hp | hp | hp | hp | hp | hp | hp | hp | hp | hp | hp | hp
  · rw [engineTurn_idle hp] at h; cases h; exact hi
  · exact execInit_inv hi hp (engineTurn_init hp ▸ h)
  · exact execPadCopy_inv hi hp (engineTurn_padCopy hp ▸ h)
  · exact execPadMark_inv hi hp (engineTurn_padMark hp ▸ h)
  · exact execPadZero_inv hi hp (engineTurn_padZero hp ▸ h)
  · exact execPadLen_inv hi hp (engineTurn_padLen hp ▸ h)
  · exact execWload_inv hi hp (engineTurn_wload hp ▸ h)
  · exact execWexp_inv hi hp (engineTurn_wexp hp ▸ h)
  · exact execLoadv_inv hi hp (engineTurn_loadv hp ▸ h)
  · exact execRound_inv hi hp (engineTurn_round hp ▸ h)
  · exact execFeed_inv hi hp (engineTurn_feed hp ▸ h)
  · exact execFinalize_inv hi hp (engineTurn_finalize hp ▸ h)
  · rw [engineTurn_done hp] at h; cases h; exact hi
  · rw [engineTurn_error hp] at h; cases h; exact hi
  · rw [engineTurn_reserved hp] at h; cases h

/-! ## The host and reset keep the invariant -/

/-- The invariant says nothing of the host's agenda and readings. -/
theorem State.Inv.hostSide (h : s.Inv) (agenda : List Turn) (readings : List Reading) (n : Nat) :
    State.Inv { s with agenda := agenda, readings := readings, unspecifiedReads := n } :=
  .of_memoriesFit h.memoriesFit h.phaseLegal h.errLegal h.seq

/-- A move of the host keeps the invariant. -/
theorem hostTurn_inv {m : HostMove} (hi : s.Inv) (h : hostTurn m s = .next t) : t.Inv := by
  obtain ⟨a, b, -, ha, rfl⟩ | ⟨n, -, rfl⟩ | rfl | ⟨op, rfl⟩ | rfl | ⟨r, n, rfl⟩ := hostTurn_next h
  · exact .of_memoriesFit (hi.memoriesFit.write_msg ha b) hi.phaseLegal hi.errLegal hi.seq
  · exact .of_memoriesFit hi.memoriesFit hi.phaseLegal hi.errLegal hi.seq
  · exact hi
  · exact .of_not_error hi.memoriesFit (by simp) rfl (State.seqInv_unbounded (.inr (.inl rfl)))
  · exact .of_error hi.memoriesFit rfl (.inr rfl)
  · exact hi.hostSide s.agenda _ _

/-- After reset nothing is written and no phase bound applies. -/
theorem State.resetWith_inv (par : Params) : State.Inv (State.resetWith par) :=
  .of_not_error (memoriesFit_empty par) (by simp [State.resetWith]) rfl (State.seqInv_unbounded (.inl rfl))

end

/-- Settles O26: the base case, for every capacity. -/
theorem resetHasTheInvariant : Obligations.ResetHasTheInvariant :=
  ⟨State.resetWith_inv Params.default, State.resetWith_inv⟩

/-- Settles O27, by the kind of turn: the engine's micro-operation, a move of the host, the end of a `WAIT`, or reset. -/
theorem stepKeepsTheInvariant : Obligations.StepKeepsTheInvariant := by
  intro s t hi h
  obtain ⟨agenda, h⟩ | ⟨m, rest, -, h⟩ | ⟨rest, rfl⟩ | ⟨rest, -, rfl⟩ := step_next h
  · exact engineTurn_inv (hi.hostSide agenda _ _) h
  · exact hostTurn_inv (hi.hostSide rest _ _) h
  · exact hi.hostSide rest _ _
  · exact (State.resetWith_inv s.par).hostSide _ _ _

end Sys2Proof.Machine

/-! PROOF. Who writes what (spec/10_state.md R20, R22, R41): the frame of every instruction, and the Message's last value. -/

namespace Sys2Proof.Machine

theorem execDigest_next {s t : State} (h : execDigest s = .next t) : t = s ∨ t = s.start 0 :=
  (onCommand_next h).imp And.right fun ⟨_, _, ht⟩ => ht

theorem execPadded_next {s t : State} (h : execPadded s = .next t) : t = s ∨ t = s.start 1 :=
  (onCommand_next h).imp And.right fun ⟨_, _, ht⟩ => ht

/-- Settles O29, instruction by instruction: each one's inversion names the elements it writes. -/
theorem onlyNamedWritersWrite : Obligations.OnlyNamedWritersWrite := by
  intro i s t h
  cases i with
  | digest => obtain rfl | rfl := execDigest_next h <;> simp
  | padded => obtain rfl | rfl := execPadded_next h <;> simp
  | holdIdle | holdDone | holdError => cases h; simp
  | init => obtain ⟨-, rfl⟩ | ⟨-, rfl⟩ := execInit_next h <;> simp
  | padCopy =>
    obtain ⟨b, -, -, -, rfl⟩ := execPadCopy_next h
    split <;> simp
  | padMark => obtain ⟨-, rfl⟩ := execPadMark_next h; simp
  | padZero =>
    obtain ⟨-, rfl⟩ := execPadZero_next h
    split <;> simp
  | padLen =>
    obtain ⟨b, -, -, rfl⟩ := execPadLen_next h
    split <;> simp
  | wload =>
    obtain ⟨bs, -, -, -, rfl⟩ := execWload_next h
    split <;> simp
  | wexp =>
    obtain ⟨-, w2, w7, w15, w16, -, -, -, -, -, rfl⟩ := execWexp_next h
    split <;> simp
  | loadv => cases execLoadv_next h; simp
  | round =>
    obtain ⟨kt, wt, -, -, rfl⟩ := execRound_next h
    split <;> simp
  | feed =>
    cases execFeed_next h
    split <;> simp
  | finalize =>
    obtain ⟨m, heq, -⟩ := execFinalize_eq s
    cases heq.symm.trans h
    simp

/-- No instruction writes the Message or its length (R41). -/
theorem exec_keeps_message {i : Instr} {s t : State} (h : exec i s = .next t) :
    t.msg = s.msg ∧ t.msgLen = s.msgLen ∧ t.msgLenWritten = s.msgLenWritten := by
  obtain ⟨-, -, -, -, -, -, -, -, -, -, -, -, -, -, hmsg, hlen, -, hwritten, -⟩ := onlyNamedWritersWrite i s t h
  exact ⟨hmsg, hlen, hwritten⟩

/-- Settles O59: of all turns only the host's write to that port and reset change the Message or its length. -/
theorem messageKeepsTheLastValueWritten : Obligations.MessageKeepsTheLastValueWritten := by
  intro s t h
  obtain ⟨agenda, h⟩ | ⟨m, rest, hs, h⟩ | ⟨rest, rfl⟩ | ⟨rest, hs, -⟩ := step_next h
  · obtain ⟨i, -, h⟩ := engineTurn_next h
    obtain ⟨hmsg, hlen, hwritten⟩ := exec_keeps_message h
    simp [hmsg, hlen, hwritten]
  · obtain ⟨a, b, rfl, -, rfl⟩ | ⟨n, rfl, rfl⟩ | rfl | ⟨op, rfl⟩ | rfl | ⟨r, n, rfl⟩ := hostTurn_next h
    · refine ⟨fun x hx => .inl ⟨b, rest, ?_⟩, by simp, by simp⟩
      have hxa : x = a := by
        by_contra hne
        exact hx (Memory.read_write_other s.msg b hne)
      subst hxa
      exact ⟨hs, Memory.read_write_same s.msg x b⟩
    · exact ⟨by simp, fun _ => .inl ⟨n, rest, hs, rfl⟩, fun _ => .inl ⟨n, rest, hs, rfl⟩⟩
    all_goals simp
  · simp
  · exact ⟨fun _ _ => .inr ⟨rest, hs⟩, fun _ => .inr ⟨rest, hs⟩, fun _ => .inr ⟨rest, hs⟩⟩

end Sys2Proof.Machine

/-! PROOF. The host's ports (spec/10_state.md R40, R41): what each read and each write answers, inside its window and outside it. -/

namespace Sys2Proof.Machine

/-- Settles O32: the step is the reading move in the state in which its turn is used up. -/
theorem portReadsHaveNoSideEffect : Obligations.PortReadsHaveNoSideEffect := by
  intro s t m rest hs hm h
  rw [step_host hs] at h
  exact hostTurn_read_next hm h

theorem isDone_of_ne {ph : BitVec 4} (h : ph ≠ Phase.done) : isDone ph = false := beq_false_of_ne h

section
variable {s : State} {a : Nat} {b : Byte}

/-! ## Reads inside the window -/

theorem hostTurn_readMsg_written (ha : a < s.par.msgCap) (hb : s.peek .msg a = some b) :
    hostTurn (.readMsg a) s = .next (s.observe (.msg a b)) :=
  hostReadCell_valid ha hb

theorem hostTurn_readMsgLen_written (h : s.msgLenWritten = true) :
    hostTurn .readMsgLen s = .next (s.observe (.msgLen s.msgLen)) :=
  (hostReadMsgLen_eq s).trans (by rw [if_pos h])

theorem hostTurn_readPlen_done (h : s.phase = Phase.done) : hostTurn .readPlen s = .next (s.observe (.plen s.plen)) :=
  (hostReadPlen_eq s).trans (by rw [if_pos (by simp [isDone, h])])

theorem hostTurn_readP_done (hp : s.phase = Phase.done) (ha : a < s.plen) (hcap : a < s.par.padCap)
    (hb : s.peek .p a = some b) : hostTurn (.readP a) s = .next (s.observe (.p a b)) := by
  have hwindow : (isDone s.phase && decide (a < s.plen)) = true := by simp [isDone, hp, ha]
  show hostReadCell .p (isDone s.phase && decide (a < s.plen)) a (.p a) s = _
  rw [hwindow]
  exact hostReadCell_valid hcap hb

theorem hostTurn_readDig_done (hp : s.phase = Phase.done) (hop : s.op = 0) (ha : a < 128)
    (hb : s.peek .dig a = some b) : hostTurn (.readDig a) s = .next (s.observe (.dig a b)) := by
  have hwindow : (isDone s.phase && s.op == 0) = true := by simp [isDone, hp, hop]
  show hostReadCell .dig (isDone s.phase && s.op == 0) a (.dig a) s = _
  rw [hwindow]
  exact hostReadCell_valid ha hb

/-! ## Reads outside the window (log entry 6) -/

theorem readsUnspecified_msg (ha : a < s.par.msgCap) (h : s.peek .msg a = none) :
    s.readsUnspecified (.readMsg a) (.msg a (Config.unspecifiedByte s.unspecifiedReads)) :=
  hostReadCell_unspecified ha (.inr h)

theorem readsUnspecified_msgLen (h : s.msgLenWritten = false) :
    s.readsUnspecified .readMsgLen (.msgLen (Config.unspecifiedNumber s.unspecifiedReads)) :=
  (hostReadMsgLen_eq s).trans (by rw [if_neg (by simp [h])]; rfl)

theorem readsUnspecified_p (ha : a < s.par.padCap) (h : s.phase ≠ Phase.done ∨ s.plen ≤ a) :
    s.readsUnspecified (.readP a) (.p a (Config.unspecifiedByte s.unspecifiedReads)) := by
  refine hostReadCell_unspecified ha (.inl ?_)
  rcases h with h | h
  · simp [isDone_of_ne h]
  · simp [h]

theorem readsUnspecified_dig (ha : a < 128) (h : s.phase ≠ Phase.done ∨ s.op = 1) :
    s.readsUnspecified (.readDig a) (.dig a (Config.unspecifiedByte s.unspecifiedReads)) := by
  refine hostReadCell_unspecified ha (.inl ?_)
  rcases h with h | h
  · simp [isDone_of_ne h]
  · simp [h]

/-- Outside DONE there is no result to read. -/
theorem resultsUnreadable_of_not_done (h : s.phase ≠ Phase.done) : s.resultsUnreadable :=
  ⟨fun _ ha => readsUnspecified_p ha (.inl h), (hostReadPlen_eq s).trans (by rw [if_neg (by simp [isDone_of_ne h])]; rfl),
    fun _ ha => readsUnspecified_dig ha (.inl h)⟩

/-- A byte's read is answered wherever the address exists, in its window or not. -/
theorem hostReadCell_answered {sp : Space} (window : Bool) (r : Byte → Reading) (ha : a < Params.size s.par sp) :
    ∃ t, hostReadCell sp window a r s = .next t := by
  simp only [hostReadCell, if_pos ha]
  cases if window then (s.peek sp a).map r else none <;> exact ⟨_, rfl⟩

/-! ## Writes -/

/-- A write past the end of `MSG` stops, whatever the phase. -/
theorem hostTurn_writeMsg_absent (h : s.par.msgCap ≤ a) (b : Byte) :
    hostTurn (.writeMsg a b) s = .fault (.noSuchAddress .msg a) := by
  have hw : s.writeByte .msg a b = .error (.noSuchAddress .msg a) := State.writeByte_error.mpr ⟨Nat.not_lt.mpr h, rfl⟩
  simp [hostTurn, hostWriteMsg, hw]

theorem isQuiescent_of_isBusy {ph : BitVec 4} (h : isBusy ph = true) : isQuiescent ph = false :=
  eq_false_of_ne_true fun hq => by simp [isBusy_of_isQuiescent hq] at h

theorem hostTurn_writeMsg_busy (h : isBusy s.phase = true) (ha : a < s.par.msgCap) (b : Byte) :
    hostTurn (.writeMsg a b) s = .refused (.portWriteOutsideWindow .msg) := by
  have hw := State.writeByte_ok (s := s) (sp := .msg) (b := b) |>.mpr ⟨ha, rfl⟩
  simp [hostTurn, hostWriteMsg, hw, isQuiescent_of_isBusy h]

theorem hostTurn_writeMsgLen_busy (h : isBusy s.phase = true) (n : Nat) :
    hostTurn (.writeMsgLen n) s = .refused (.portWriteOutsideWindow .msgLen) := by
  simp [hostTurn, hostWriteMsgLen, isQuiescent_of_isBusy h]

end

/-! ## The statements -/

/-- Settles O34: the invariant has every byte of the results written and inside its space. -/
theorem resultsAreReadableWhenDone : Obligations.ResultsAreReadableWhenDone := by
  intro s hi hp
  obtain ⟨-, -, hcap, hwritten, hdig⟩ := (State.seqInv_done hp).mp hi.seq
  refine ⟨fun a ha => ?_, hostTurn_readPlen_done hp, fun hop a ha => ?_⟩
  · obtain ⟨b, hb⟩ := Option.isSome_iff_exists.mp (hwritten a ha)
    exact ⟨b, hb, hostTurn_readP_done hp ha (by omega) hb⟩
  · obtain ⟨b, hb⟩ := Option.isSome_iff_exists.mp (hdig hop a ha)
    exact ⟨b, hb, hostTurn_readDig_done hp hop ha hb⟩

/-- Settles O33, window by window, then the addresses past each memory's end. -/
theorem readsOutsideTheWindowAreUnspecified : Obligations.ReadsOutsideTheWindowAreUnspecified := fun _ _ =>
  ⟨resultsUnreadable_of_not_done,
    fun hop ha => readsUnspecified_dig ha (.inr hop),
    fun hplen ha => readsUnspecified_p ha (.inr hplen),
    fun hnone ha => readsUnspecified_msg ha hnone,
    readsUnspecified_msgLen,
    fun h => hostReadCell_absent (sp := .dig) h,
    fun h => hostReadCell_absent (sp := .p) h,
    fun h => ⟨hostReadCell_absent (sp := .msg) h, hostTurn_writeMsg_absent h⟩⟩

/-- Settles O35: the byte or length written is what the memory or register then holds, so the read is inside its window. -/
theorem hostWritesMessageWhenQuiescent : Obligations.HostWritesMessageWhenQuiescent := by
  intro s
  refine ⟨fun hq a b ha => ?_, fun hq n => ?_, fun hbusy => ?_⟩
  · have hsame := Memory.read_write_same s.msg a b
    exact ⟨_, hostWriteMsg_next.mpr ⟨ha, hq, rfl⟩, hsame, fun x hx => Memory.read_write_other s.msg b hx, rfl,
      hostTurn_readMsg_written ha hsame⟩
  · exact ⟨_, hostWriteMsgLen_next.mpr ⟨hq, rfl⟩, rfl, hostTurn_readMsgLen_written rfl⟩
  · exact ⟨fun a b ha => hostTurn_writeMsg_busy hbusy ha b, hostTurn_writeMsgLen_busy hbusy⟩

/-- Settles O58: neither window asks anything of the phase. -/
theorem messageIsReadableInEveryPhase : Obligations.MessageIsReadableInEveryPhase := fun _ =>
  ⟨hostTurn_readMsgLen_written, fun _ _ => hostTurn_readMsg_written⟩

/-- Settles O60: a read is answered inside its window and outside it. -/
theorem portReadsAreAlwaysAnswered : Obligations.PortReadsAreAlwaysAnswered := fun s _ =>
  ⟨⟨_, rfl⟩, ⟨_, hostReadMsgLen_eq s⟩, ⟨_, hostReadPlen_eq s⟩, fun h => hostReadCell_answered (sp := .msg) _ _ h,
    fun h => hostReadCell_answered (sp := .p) _ _ h, fun h => hostReadCell_answered (sp := .dig) _ _ h⟩

/-- Settles O14: PAD_COPY stops with the fault of the byte it reads. -/
theorem unwrittenOrAbsentCellStops : Obligations.UnwrittenOrAbsentCellStops := by
  refine ⟨fun s ha hnone => ?_, fun s sp a b h => ?_⟩
  · have hread : s.readByte .msg s.copyAddr = .error (.unwrittenByte .msg s.copyAddr) :=
      State.readByte_error.mpr (.inl ⟨ha, hnone, rfl⟩)
    simp [exec, execPadCopy, hread]
  · have habsent := Nat.not_lt.mpr h
    exact ⟨State.readByte_error.mpr (.inr ⟨habsent, rfl⟩), State.writeByte_error.mpr ⟨habsent, rfl⟩⟩

end Sys2Proof.Machine

/-! PROOF. `STATUS` (spec/10_state.md R29) and the state after reset (R45, R46). -/

namespace Sys2Proof.Machine

section
variable (s : State)

/-! ## The fields of `STATUS`, from the lowest bit up -/

theorem statusWord_phase : (statusWord s).extractLsb' 0 4 = s.phase := BitVec.extractLsb'_append_eq_right

theorem statusWord_busy : (statusWord s).getLsbD 4 = isBusy s.phase := by
  rw [statusWord, BitVec.getLsbD_append, BitVec.getLsbD_append]
  simp

theorem statusWord_done : (statusWord s).getLsbD 5 = isDone s.phase := by
  rw [statusWord, BitVec.getLsbD_append, BitVec.getLsbD_append, BitVec.getLsbD_append]
  simp

theorem statusWord_error : (statusWord s).getLsbD 6 = isError s.phase := by
  rw [statusWord, BitVec.getLsbD_append, BitVec.getLsbD_append, BitVec.getLsbD_append, BitVec.getLsbD_append]
  simp

/-- Above the phase and the three flags stand `op`, `ERR` and zeros. -/
theorem statusWord_above_flags (start len : Nat) :
    (statusWord s).extractLsb' (start + 7) len = (0#5 ++ s.err ++ s.op).extractLsb' start len := by
  rw [statusWord, BitVec.extractLsb'_append_eq_of_le (by omega), BitVec.extractLsb'_append_eq_of_le (by omega),
    BitVec.extractLsb'_append_eq_of_le (by omega), BitVec.extractLsb'_append_eq_of_le (by omega)]
  congr 1

theorem statusWord_op : (statusWord s).extractLsb' 7 1 = s.op :=
  (statusWord_above_flags s 0 1).trans BitVec.extractLsb'_append_eq_right

theorem statusWord_err : (statusWord s).extractLsb' 8 3 = s.err :=
  (statusWord_above_flags s 1 3).trans <|
    (BitVec.extractLsb'_append_eq_of_le le_rfl).trans BitVec.extractLsb'_append_eq_right

theorem statusWord_zeros : (statusWord s).extractLsb' 11 5 = 0 :=
  (statusWord_above_flags s 4 5).trans <|
    (BitVec.extractLsb'_append_eq_of_le (by decide)).trans (BitVec.extractLsb'_append_eq_of_le (by decide))

end

/-! ## The three flags, over the sixteen phase codes -/

theorem isBusy_iff {ph : BitVec 4} : isBusy ph = true ↔ 1 ≤ ph.toNat ∧ ph.toNat ≤ 11 := by simp [isBusy]

theorem flags_exclusive (ph : BitVec 4) :
    (isBusy ph && isDone ph) = false ∧ (isBusy ph && isError ph) = false ∧ (isDone ph && isError ph) = false := by
  revert ph; decide

/-- Of the fourteen defined phases only IDLE sets no flag. -/
theorem no_flag_iff_idle {ph : BitVec 4} (h : ph.toNat ≤ 13) :
    (isBusy ph = false ∧ isDone ph = false ∧ isError ph = false) ↔ ph = Phase.idle := by
  revert ph; decide

/-- Settles O23, field by field. -/
theorem statusLayout : Obligations.StatusLayout := by
  refine ⟨fun s => ⟨statusWord_phase s, ?_, ?_, ?_, statusWord_op s, statusWord_err s, statusWord_zeros s, rfl⟩, fun s hp => ?_⟩
  · rw [statusWord_busy, isBusy_iff]
  · rw [statusWord_done]; exact beq_iff_eq
  · rw [statusWord_error]; exact beq_iff_eq
  · rw [statusWord_busy, statusWord_done, statusWord_error]
    exact ⟨no_flag_iff_idle hp, flags_exclusive s.phase⟩

/-- Settles O24: the idle engine's turn gives the same state, so any number of turns does. -/
theorem resetIsIdle : Obligations.ResetIsIdle := by
  have hstep : step State.reset = .next State.reset := rfl
  refine ⟨rfl, rfl, rfl, State.peek_resetWith Params.default, fun n => ?_⟩
  induction n with
  | zero => rfl
  | succ n ih => rw [run, hstep]; exact ih

end Sys2Proof.Machine

/-! PROOF. Progress of the engine (spec/20_memory.md R61, 45_host_commands.md R237): under the invariant every operand a micro-operation
takes is there, but for a Message byte the host never wrote. -/

namespace Sys2Proof.Machine

/-- An operation whose operand is there, and which goes on to a next state with any operand, answers a next state. -/
theorem withOperand_answered {α : Type} {r : Except Fault α} {go : α → Host.Outcome State Fault Refusal}
    (hr : ∃ x, r = .ok x) (hgo : ∀ x, ∃ t, go x = .next t) : ∃ t, withOperand r go = .next t := by
  obtain ⟨x, rfl⟩ := hr
  exact hgo x

section
variable {s : State}

/-! ## The operands that are there -/

theorem State.writeByte_answered {sp : Space} {a : Nat} (ha : a < Params.size s.par sp) (b : Byte) :
    ∃ s', s.writeByte sp a b = .ok s' :=
  ⟨_, State.writeByte_ok.mpr ⟨ha, rfl⟩⟩

/-- Bytes that all exist and are all written are read. -/
theorem State.readBytes_answered {sp : Space} {a n : Nat} (ha : a + n ≤ Params.size s.par sp) (hw : s.written sp (a + n)) :
    ∃ bs, s.readBytes sp a n = .ok bs := by
  induction n generalizing a with
  | zero => exact ⟨[], rfl⟩
  | succ n ih =>
    have hnext : a + 1 + n = a + (n + 1) := by omega
    obtain ⟨b, hb⟩ := Option.isSome_iff_exists.mp (hw a (by omega))
    have hread : s.readByte sp a = .ok b := State.readByte_ok.mpr ⟨by omega, hb⟩
    obtain ⟨bs, hbs⟩ := ih (a := a + 1) (hnext ▸ ha) (hnext ▸ hw)
    exact ⟨b :: bs, by simp [State.readBytes, hread, hbs]⟩

theorem State.lengthFieldByte_answered {n : Nat} (hn : n < 16) : ∃ b, s.lengthFieldByte n = .ok b :=
  ⟨_, State.lengthFieldByte_ok.mpr (List.getElem?_eq_getElem (by simpa using hn))⟩

theorem State.scheduleWord_answered {n : Nat} (hn : n < 80) : ∃ w, s.scheduleWord n = .ok w :=
  ⟨_, State.scheduleWord_ok.mpr (Vector.getElem?_eq_getElem hn)⟩

theorem State.setScheduleWord_answered {n : Nat} (hn : n < 80) (w : Word) : ∃ s', s.setScheduleWord n w = .ok s' :=
  ⟨_, State.setScheduleWord_ok.mpr ⟨hn, rfl⟩⟩

theorem roundConstant_answered {n : Nat} (hn : n < 80) : ∃ k, roundConstant n = .ok k :=
  ⟨_, roundConstant_ok.mpr (List.getElem?_eq_getElem (by simpa using hn))⟩

theorem State.tap_answered {d : Nat} (hd : d ≤ s.t.toNat) (ht : s.t.toNat - d < 80) : ∃ w, s.tap d = .ok w :=
  ⟨_, State.tap_ok.mpr ⟨hd, Vector.getElem?_eq_getElem ht⟩⟩

/-! ## The micro-operations, each under the bounds its phase has -/

theorem execInit_answered (s : State) : ∃ t, execInit s = .next t := by
  unfold execInit
  split
  · exact ⟨_, rfl⟩
  · split <;> exact ⟨_, rfl⟩

theorem execPadCopy_answered {b : Byte} (ha : s.j < s.par.msgCap) (hb : s.peek .msg s.j = some b) :
    ∃ t, execPadCopy s = .next t :=
  withOperand_answered ⟨b, State.readByte_ok.mpr ⟨ha, hb⟩⟩ fun b =>
    withOperand_answered (State.writeByte_answered (sp := .p) (ha.trans (msgCap_lt_padCap s.par)) b) fun _ => ⟨_, rfl⟩

theorem execPadMark_answered (ha : s.L < s.par.padCap) : ∃ t, execPadMark s = .next t :=
  withOperand_answered (State.writeByte_answered (sp := .p) ha _) fun _ => ⟨_, rfl⟩

theorem execPadZero_answered (ha : s.zeroAddr < s.par.padCap) : ∃ t, execPadZero s = .next t :=
  withOperand_answered (State.writeByte_answered (sp := .p) ha _) fun _ => ⟨_, rfl⟩

theorem execPadLen_answered (hj : s.j < 16) (ha : s.lenAddr < s.par.padCap) : ∃ t, execPadLen s = .next t :=
  withOperand_answered (State.lengthFieldByte_answered hj) fun b =>
    withOperand_answered (State.writeByte_answered (sp := .p) ha b) fun _ => ⟨_, rfl⟩

theorem execWload_answered (ht : s.t.toNat < 80) (ha : s.wordAddr + 8 ≤ s.par.padCap) (hw : s.written .p (s.wordAddr + 8)) :
    ∃ t, execWload s = .next t :=
  withOperand_answered (State.readBytes_answered (sp := .p) ha hw) fun bs =>
    withOperand_answered (State.setScheduleWord_answered ht (be64 bs)) fun _ => ⟨_, rfl⟩

theorem execWexp_answered (h16 : 16 ≤ s.t.toNat) (ht : s.t.toNat < 80) : ∃ t, execWexp s = .next t :=
  have htap {d : Nat} (hd : d ≤ 16) : ∃ w, s.tap d = .ok w := State.tap_answered (hd.trans h16) (by omega)
  withOperand_answered (htap (by decide)) fun _ => withOperand_answered (htap (by decide)) fun _ =>
    withOperand_answered (htap (by decide)) fun _ => withOperand_answered (htap (by decide)) fun _ =>
      withOperand_answered (State.setScheduleWord_answered ht _) fun _ => ⟨_, rfl⟩

theorem execRound_answered (ht : s.t.toNat < 80) : ∃ t, execRound s = .next t :=
  withOperand_answered (roundConstant_answered ht) fun _ =>
    withOperand_answered (State.scheduleWord_answered ht) fun _ => ⟨_, rfl⟩

/-- A block's word ends inside the PaddedMessage (20_memory.md R61, R64). -/
theorem State.wordAddr_le_plen (hb : s.inBlock) (ht : s.t.toNat ≤ 15) : s.wordAddr + 8 ≤ s.plen := by
  obtain ⟨-, -, hN, hi⟩ := hb
  have hblocks : 128 * s.N ≤ s.plen := hN ▸ Nat.mul_div_le s.plen 128
  unfold State.wordAddr
  omega

/-! ## The engine's turn -/

/-- In PAD_COPY the engine copies the byte, or stops because the host never wrote it. -/
theorem execPadCopy_answered_or_unwritten (ha : s.j < s.par.msgCap) :
    (∃ t, execPadCopy s = .next t) ∨
      (s.peek .msg s.j = none ∧ execPadCopy s = .fault (.unwrittenByte .msg s.j)) := by
  cases hb : s.peek .msg s.j with
  | some b => exact .inl (execPadCopy_answered ha hb)
  | none => exact .inr ⟨rfl, unwrittenOrAbsentCellStops.1 s ha hb⟩

/-- Under the invariant the engine's turn answers a next state in every phase but PAD_COPY: the phase's bounds put each address and each
index where it has to be. -/
theorem engineTurn_answered (hi : s.Inv) (hne : s.phase ≠ Phase.padCopy) : ∃ t, engineTurn s = .next t := by
  rcases phase_cases s.phase with hp | hp | hp | hp | hp | hp | hp | hp | hp | hp | hp | hp | hp | hp | hp
  · exact ⟨s, engineTurn_idle hp⟩
  · rw [engineTurn_init hp]; exact execInit_answered s
  · exact absurd hp hne
  · obtain ⟨hL, -⟩ := (State.seqInv_padMark hp).mp hi.seq
    rw [engineTurn_padMark hp]
    exact execPadMark_answered (hL.trans_lt (msgCap_lt_padCap s.par))
  · obtain ⟨hL, hk, hj, -⟩ := (State.seqInv_padZero hp).mp hi.seq
    have hcap := padLength_le_padCap hL
    rw [engineTurn_padZero hp]
    exact execPadZero_answered (by unfold State.zeroAddr; unfold padLength at hcap; omega)
  · obtain ⟨hL, hk, hj, -⟩ := (State.seqInv_padLen hp).mp hi.seq
    have hcap := padLength_le_padCap hL
    rw [engineTurn_padLen hp]
    exact execPadLen_answered (by omega) (by unfold State.lenAddr; unfold padLength at hcap; omega)
  · obtain ⟨hb, ht⟩ := (State.seqInv_wload hp).mp hi.seq
    obtain ⟨-, -, hcap, hw⟩ := State.paddedReady_done hb.1
    have hend := State.wordAddr_le_plen hb ht
    rw [engineTurn_wload hp]
    exact execWload_answered (by omega) (hend.trans hcap) fun a ha => hw a (ha.trans_le hend)
  · obtain ⟨-, h16, ht⟩ := (State.seqInv_wexp hp).mp hi.seq
    rw [engineTurn_wexp hp]; exact execWexp_answered h16 (by omega)
  · exact ⟨_, engineTurn_loadv hp⟩
  · obtain ⟨-, ht⟩ := (State.seqInv_round hp).mp hi.seq
    rw [engineTurn_round hp]; exact execRound_answered (by omega)
  · exact ⟨_, engineTurn_feed hp⟩
  · obtain ⟨m, heq, -⟩ := execFinalize_eq s
    exact ⟨_, (engineTurn_finalize hp).trans heq⟩
  · exact ⟨s, engineTurn_done hp⟩
  · exact ⟨s, engineTurn_error hp⟩
  · have := hi.phaseLegal
    omega

/-- Under the invariant the engine's turn answers a next state, or it is PAD_COPY on a byte the host never wrote. -/
theorem engineTurn_answered_or_unwritten (hi : s.Inv) :
    (∃ t, engineTurn s = .next t) ∨
      (s.phase = Phase.padCopy ∧ s.j < s.L ∧ s.peek .msg s.j = none ∧
        engineTurn s = .fault (.unwrittenByte .msg s.j)) := by
  by_cases hp : s.phase = Phase.padCopy
  · obtain ⟨hL, hj, -⟩ := (State.seqInv_padCopy hp).mp hi.seq
    rw [engineTurn_padCopy hp]
    exact (execPadCopy_answered_or_unwritten (hj.trans_le hL)).imp_right fun ⟨hnone, hfault⟩ => ⟨hp, hj, hnone, hfault⟩
  · exact .inl (engineTurn_answered hi hp)

/-- A step that decodes the phase code is the engine's turn; before it at most the agenda has changed. -/
theorem step_eq_engineTurn (h : s.nextCode = some (.phase s.phase)) :
    ∃ agenda, step s = engineTurn { s with agenda := agenda } := by
  match hs : s.agenda with
  | [] => exact ⟨s.agenda, step_engine hs⟩
  | .engine :: rest => exact ⟨rest, step_engine_cons hs⟩
  | .host m :: _ => cases m <;> simp [State.nextCode, hs] at h
  | .wait :: rest =>
    simp only [State.nextCode, hs] at h
    split at h
    · cases h
    next hpoll => exact ⟨s.agenda, by rw [step_wait hs, waitTurn, if_neg hpoll]⟩
  | .reset :: _ => simp [State.nextCode, hs] at h

end

/-- Settles O28: the step is the engine's turn, and the invariant does not speak of the agenda. -/
theorem engineStopsOnlyOnUnwrittenMessage : Obligations.EngineStopsOnlyOnUnwrittenMessage := by
  intro s hi hcode
  obtain ⟨agenda, hstep⟩ := step_eq_engineTurn hcode
  rw [hstep]
  exact engineTurn_answered_or_unwritten (hi.hostSide agenda s.readings s.unspecifiedReads)

end Sys2Proof.Machine

/-! PROOF. The blocks of a padded Message (spec/20_memory.md R64, R65). -/

namespace Sys2Proof.Machine

/-- The first `n` blocks, concatenated, are the first `128 · n` bytes. -/
theorem flatten_map_block (P : List Byte) (n : Nat) : ((List.range n).map (block P)).flatten = P.take (128 * n) := by
  induction n with
  | zero => simp
  | succ n ih =>
    rw [List.range_succ, List.map_append, List.flatten_append, ih, Nat.mul_succ, List.take_add]
    simp [block]

/-- A block that ends inside the padded Message has 128 bytes. -/
theorem block_length {P : List Byte} {i : Nat} (h : i < P.length / 128) : (block P i).length = 128 := by
  simp only [block, List.length_take, List.length_drop]
  omega

/-- The blocks of whole blocks, concatenated, are those bytes. -/
theorem flatten_blocks {P : List Byte} (h : P.length % 128 = 0) : (blocks P).flatten = P := by
  rw [blocks, flatten_map_block, Nat.mul_div_cancel' (Nat.dvd_of_mod_eq_zero h), List.take_length]

theorem length_of_mem_blocks {P B : List Byte} (h : B ∈ blocks P) : B.length = 128 := by
  obtain ⟨i, hi, rfl⟩ := List.mem_map.mp h
  exact block_length (List.mem_range.mp hi)

/-- Settles O45: the padding is whole blocks (R143). -/
theorem blocksReassemble : Obligations.BlocksReassemble := fun M =>
  ⟨flatten_blocks (by rw [pad_length, padLength_mod]), fun _ => length_of_mem_blocks⟩

end Sys2Proof.Machine

/-! PROOF. The codes and the step that runs them (spec/30_encoding.md R90 to R96). -/

namespace Sys2Proof.Machine

/-! ## The decoder and the encoder -/

theorem decode_cmd_illegal {c : BitVec 8} (h1 : c ≠ 0x01#8) (h2 : c ≠ 0x02#8) :
    decode (.cmd c) = .error (.illegalCommand c) := by
  simp only [decode, decodeCommand]

theorem decode_phase_reserved {p : BitVec 4} (h : 14 ≤ p.toNat) : decode (.phase p) = .error (.reservedPhase p) := by
  revert p; decide

theorem decode_encode (i : Instr) : decode (encode i) = .ok i := by
  cases i <;> rfl

/-- A code that decodes is an assigned one, and the encoding of what it decodes to (R92, R93). -/
theorem encode_of_decode {c : Code} {i : Instr} (h : decode c = .ok i) : encode i = c ∧ c.wf = true := by
  cases c with
  | cmd c =>
    by_cases h1 : c = 0x01#8
    · subst h1; cases h; exact ⟨rfl, rfl⟩
    · by_cases h2 : c = 0x02#8
      · subst h2; cases h; exact ⟨rfl, rfl⟩
      · rw [decode_cmd_illegal h1 h2] at h; cases h
  | phase p =>
    simp only [decode, decodePhase] at h
    split at h <;> cases h <;> exact ⟨rfl, rfl⟩

/-- Settles O1, code by code. -/
theorem codesAreTheTables : Obligations.CodesAreTheTables :=
  ⟨rfl, rfl, fun _ => decode_cmd_illegal, rfl, rfl, rfl, rfl, rfl, rfl, rfl, rfl, rfl, rfl, rfl, rfl, rfl, rfl,
    decode_phase_reserved (by decide), decode_phase_reserved (by decide)⟩

/-- Settles O2: the two inverse laws. -/
theorem decodeAndEncodeAgree : Obligations.DecodeAndEncodeAgree :=
  ⟨fun i _ => decode_encode i, fun _ _ => encode_of_decode⟩

/-- Settles O3, word by word. -/
theorem sampleWordsDecode : Obligations.SampleWordsDecode :=
  ⟨rfl, rfl, rfl, rfl, rfl, rfl, rfl, rfl, rfl, rfl⟩

/-- A row's bits decode exactly when they are read as a code and the code decodes. -/
theorem decodeTableWord_eq_some {nbits w : Nat} {i : Instr} :
    decodeTableWord nbits w = some i ↔ ∃ c, tableCode nbits w = some c ∧ decode c = .ok i := by
  unfold decodeTableWord
  cases tableCode nbits w with
  | none => simp
  | some c => cases h : decode c <;> simp [h]

/-! ## The step and the code it runs -/

theorem runCode_of_decode {c : Code} {i : Instr} (h : decode c = .ok i) (s : State) : runCode c s = exec i s := by
  simp [runCode, h]

/-- A step that finds a code runs it in the state in which the turn is used up. -/
theorem step_of_nextCode {s : State} {c : Code} (h : s.nextCode = some c) : step s = runCode c s.afterTurn := by
  match hs : s.agenda with
  | [] =>
    simp only [State.nextCode, hs, Option.some.injEq] at h
    rw [step_engine hs, engineTurn, h, State.afterTurn, hs]
  | .engine :: rest =>
    simp only [State.nextCode, hs, Option.some.injEq] at h
    rw [step_engine_cons hs, engineTurn, h, State.afterTurn, hs]
  | .host m :: rest =>
    cases m with
    | writeCmd b =>
      simp only [State.nextCode, hs, Option.some.injEq] at h
      rw [step_host hs, hostTurn, h, State.afterTurn, hs]
    | writeMsg | writeMsgLen | readStatus | readMsgLen | readMsg | readPlen | readP | readDig =>
      simp [State.nextCode, hs] at h
  | .wait :: rest =>
    simp only [State.nextCode, hs] at h
    split at h
    · cases h
    next hpoll =>
      rw [step_wait hs, waitTurn, if_neg hpoll, engineTurn, Option.some.inj h, State.afterTurn, hs]
  | .reset :: rest => simp [State.nextCode, hs] at h

/-- Using up a turn changes the agenda alone. -/
theorem State.afterTurn_eq (s : State) : s.afterTurn = { s with agenda := s.afterTurn.agenda } := by
  unfold State.afterTurn
  split <;> rfl

/-- Settles O4: the step runs the code it finds, and running a code that decodes is `exec`. -/
theorem stepRunsTheDecodedInstruction : Obligations.StepRunsTheDecodedInstruction := by
  intro s c i hcode hdecode
  exact ⟨(step_of_nextCode hcode).trans (runCode_of_decode hdecode _), s.afterTurn_eq⟩

/-- A placed command byte is run in the state it was placed in. -/
theorem step_placeCode_cmd (s : State) (c : BitVec 8) : step (s.placeCode (.cmd c)) = runCode (.cmd c) s := rfl

/-- A placed phase code is run in that state with the code in `phase`. -/
theorem step_placeCode_phase (s : State) (p : BitVec 4) :
    step (s.placeCode (.phase p)) = runCode (.phase p) { s with phase := p } := rfl

/-- Settles O5, by the kind of code the row's word is: the code is the encoding of the instruction it decodes to. -/
theorem placedWordIsRunNext : Obligations.PlacedWordIsRunNext := by
  intro s nbits w i h
  obtain ⟨c, hc, hd⟩ := decodeTableWord_eq_some.mp h
  have hfetch : s.withFetchWord nbits w = s.placeCode c := by simp [State.withFetchWord, hc]
  rw [hfetch, (encode_of_decode hd).1]
  cases c with
  | cmd b => exact ⟨s, by rw [step_placeCode_cmd, runCode_of_decode hd], rfl, fun _ _ => rfl, nofun⟩
  | phase p =>
    refine ⟨{ s with phase := p }, ?_, rfl, nofun, fun ph hph => by cases hph; rfl⟩
    rw [step_placeCode_phase, runCode_of_decode hd]

/-! ## Reserved phases and `WAIT` -/

/-- In a reserved phase, neither busy nor quiescent, no write to `CMD` is answered (R96; log entry 8). -/
theorem onCommand_reserved {s : State} (h : 14 ≤ s.phase.toNat) (accept : State → State) :
    onCommand s accept = .fault (.reservedPhase s.phase) := by
  have hflags : isBusy s.phase = false ∧ isQuiescent s.phase = false := by
    revert h; generalize s.phase = p; revert p; decide
  simp [onCommand, hflags]

/-- Settles O22: no engine step, and no command accepted. -/
theorem reservedPhaseIsStuck : Obligations.ReservedPhaseIsStuck := fun s h =>
  ⟨engineTurn_reserved h, fun c => (runCode_cmd c s).trans (onCommand_reserved h _)⟩

/-- A `WAIT` whose poll finds `DONE` or `ERROR` ends, and the host keeps that reading. -/
theorem step_wait_ends {s : State} {rest : List Turn} (hs : s.agenda = .wait :: rest)
    (h : s.phase = Phase.done ∨ s.phase = Phase.error) :
    step s = .next { s with agenda := rest, readings := .status (statusWord s) :: s.readings } := by
  rw [step_wait hs, waitTurn, if_pos (by simpa [isDone, isError] using h)]
  rfl

/-- A `WAIT` whose poll finds neither stands, and the engine takes its step. -/
theorem step_wait_stands {s : State} {rest : List Turn} (hs : s.agenda = .wait :: rest)
    (hdone : s.phase ≠ Phase.done) (herror : s.phase ≠ Phase.error) : step s = engineTurn s := by
  rw [step_wait hs, waitTurn, if_neg (by simpa [isDone, isError] using And.intro hdone herror)]

/-- Settles O36: the two outcomes of a poll. -/
theorem waitPollsUntilDoneOrError : Obligations.WaitPollsUntilDoneOrError := fun _ _ hs =>
  ⟨step_wait_ends hs, step_wait_stands hs⟩

end Sys2Proof.Machine

/-! PROOF. Runs of the engine (spec/45_host_commands.md R234, R237): the turns of a busy engine, one after the other, whether the host
has left it alone or stands in a `WAIT`. -/

namespace Sys2Proof.Machine

/-- `n` turns of the engine lead from `s` to `t`, each of them taken in a busy phase. -/
inductive EngineRun : Nat → State → State → Prop where
  | refl (s : State) : EngineRun 0 s s
  | cons {n : Nat} {s u t : State} (hbusy : isBusy s.phase = true) (hturn : engineTurn s = .next u) (hrun : EngineRun n u t) :
      EngineRun (n + 1) s t

section
variable {m n : Nat} {s u t : State}

theorem EngineRun.single (hbusy : isBusy s.phase = true) (hturn : engineTurn s = .next t) : EngineRun 1 s t :=
  .cons hbusy hturn (.refl t)

theorem EngineRun.trans (h : EngineRun m s u) (h' : EngineRun n u t) : EngineRun (m + n) s t := by
  induction h with
  | refl s => rwa [Nat.zero_add]
  | cons hbusy hturn _ ih => rw [Nat.add_right_comm]; exact .cons hbusy hturn (ih h')

/-- The engine does not move the host's turns. -/
theorem engineTurn_agenda (h : engineTurn s = .next t) : t.agenda = s.agenda := by
  obtain ⟨i, -, h⟩ := engineTurn_next h
  have hframe := onlyNamedWritersWrite i s t h
  simp only [hframe]

/-- While the host waits, or has no turn, a step in a busy phase is the engine's turn. -/
theorem step_eq_engineTurn_of_busy (hs : s.agenda = [] ∨ ∃ rest, s.agenda = .wait :: rest) (hbusy : isBusy s.phase = true) :
    step s = engineTurn s := by
  obtain hs | ⟨rest, hs⟩ := hs
  · exact step_engine hs
  · refine step_wait_stands hs ?_ ?_ <;> (intro h; simp [h, isBusy] at hbusy)

/-- A run of the engine is a run of the machine while the host waits or has no turn. -/
theorem EngineRun.run_eq (h : EngineRun n s t) (hs : s.agenda = [] ∨ ∃ rest, s.agenda = .wait :: rest) : run n s = .next t := by
  induction h with
  | refl s => rfl
  | cons hbusy hturn _ ih =>
    rw [run, step_eq_engineTurn_of_busy hs hbusy, hturn]
    exact ih (by rwa [engineTurn_agenda hturn])

theorem run_trans (h : run m s = .next u) (h' : run n u = .next t) : run (m + n) s = .next t := by
  rw [run_add, h]; exact h'

theorem run_cons (h : step s = .next u) (h' : run n u = .next t) : run (n + 1) s = .next t := by
  rw [run, h]; exact h'

end

/-! ## Bytes written one after the other -/

/-- A memory after the bytes have been written to consecutive addresses, in order. -/
def Memory.writeAll (m : Memory) (a : Nat) : List Byte → Memory
  | [] => m
  | b :: bs => Memory.writeAll (Memory.write m a b) (a + 1) bs

section
variable (m : Memory) (a : Nat)

theorem Memory.writeAll_append (xs ys : List Byte) :
    Memory.writeAll m a (xs ++ ys) = Memory.writeAll (Memory.writeAll m a xs) (a + xs.length) ys := by
  induction xs generalizing m a with
  | nil => rfl
  | cons x xs ih => rw [List.cons_append, writeAll, ih, writeAll, List.length_cons, Nat.add_right_comm, Nat.add_assoc]

theorem Memory.read_writeAll_below {x : Nat} (bs : List Byte) (h : x < a) :
    Memory.read (Memory.writeAll m a bs) x = Memory.read m x := by
  induction bs generalizing m a with
  | nil => rfl
  | cons b bs ih => rw [writeAll, ih _ _ (by omega), Memory.read_write_other m b (by omega)]

/-- The bytes written stand there in order. -/
theorem Memory.read_writeAll {n : Nat} {bs : List Byte} (h : n < bs.length) :
    Memory.read (Memory.writeAll m a bs) (a + n) = bs[n]? := by
  induction bs generalizing m a n with
  | nil => cases h
  | cons b bs ih =>
    cases n with
    | zero =>
      exact (Memory.read_writeAll_below _ _ bs (Nat.lt_add_one a)).trans (Memory.read_write_same m a b)
    | succ n =>
      rw [writeAll, show a + (n + 1) = a + 1 + n by omega, ih _ _ (by simpa using h), List.getElem?_cons_succ]

end

theorem State.holds_of_mem_eq_writeAll {s : State} {sp : Space} {m : Memory} {a : Nat} {bs : List Byte}
    (h : s.mem sp = Memory.writeAll m a bs) : s.holds sp a bs := by
  intro n hn
  rw [State.peek, h, Memory.read_writeAll m a hn]

end Sys2Proof.Machine

/-! PROOF. The operations of the engine, stage by stage (spec/41_padding.md R154, 42_schedule.md R178, 43_compression.md R199, R200,
45_host_commands.md R230, R236): one run for each phase, by induction on what is left of it, and their sequence. -/

namespace Sys2Proof.Machine

section
variable {s : State}

/-! ## What a micro-operation does where its operands are there -/

theorem execPadCopy_eq {b : Byte} (ha : s.j < s.par.msgCap) (hb : s.peek .msg s.j = some b) :
    execPadCopy s = .next (if s.j + 1 = s.L then { s with p := Memory.write s.p s.j b, phase := Phase.padMark }
      else { s with p := Memory.write s.p s.j b, j := s.j + 1 }) := by
  obtain ⟨t, ht⟩ := execPadCopy_answered ha hb
  obtain ⟨b', -, hb', -, rfl⟩ := execPadCopy_next ht
  cases hb.symm.trans hb'
  exact ht

theorem execPadMark_eq (ha : s.L < s.par.padCap) :
    execPadMark s = .next { s with
      p := Memory.write s.p s.L 0x80#8
      k := BitVec.ofNat 7 (padZeros s.L)
      j := 0
      phase := if padZeros s.L > 0 then Phase.padZero else Phase.padLen } := by
  obtain ⟨t, ht⟩ := execPadMark_answered ha
  obtain ⟨-, rfl⟩ := execPadMark_next ht
  exact ht

theorem execPadZero_eq (ha : s.zeroAddr < s.par.padCap) :
    execPadZero s = .next (if s.j + 1 = s.k.toNat then
        { s with p := Memory.write s.p s.zeroAddr 0#8, j := 0, phase := Phase.padLen }
      else { s with p := Memory.write s.p s.zeroAddr 0#8, j := s.j + 1 }) := by
  obtain ⟨t, ht⟩ := execPadZero_answered ha
  obtain ⟨-, rfl⟩ := execPadZero_next ht
  exact ht

theorem execPadLen_eq {b : Byte} (hb : (lengthField s.L)[s.j]? = some b) (ha : s.lenAddr < s.par.padCap) :
    execPadLen s = .next (if s.j = 15 then
        { s with
          p := Memory.write s.p s.lenAddr b
          plen := s.paddedLength
          N := s.paddedLength / 128
          i := 0
          t := 0
          phase := if s.op = 1 then Phase.done else Phase.wload }
      else { s with p := Memory.write s.p s.lenAddr b, j := s.j + 1 }) := by
  obtain ⟨hj, -⟩ := List.getElem?_eq_some_iff.mp hb
  obtain ⟨t, ht⟩ := execPadLen_answered (by simpa using hj) ha
  obtain ⟨b', hb', -, rfl⟩ := execPadLen_next ht
  cases hb.symm.trans hb'
  exact ht

/-- The eight bytes that stand at the word's address are the word (R176). -/
theorem execWload_eq {bs : List Byte} (ht : s.t.toNat < 80) (hlen : bs.length = 8) (ha : s.wordAddr + 8 ≤ s.par.padCap)
    (hbs : s.holds .p s.wordAddr bs) :
    execWload s = .next (if s.t = 15 then
        { s with W := s.W.set s.t.toNat (be64 bs) ht, t := 16, phase := Phase.wexp }
      else { s with W := s.W.set s.t.toNat (be64 bs) ht, t := s.t + 1 }) := by
  have hread : s.readBytes .p s.wordAddr 8 = .ok bs :=
    State.readBytes_ok.mpr ⟨hlen, fun x hx => by show _ < s.par.padCap; omega, hbs⟩
  rw [execWload, hread, withOperand_ok, State.setScheduleWord_ok.mpr ⟨ht, rfl⟩, withOperand_ok]

theorem execWexp_eq {w2 w7 w15 w16 : Word} (h16 : 16 ≤ s.t.toNat) (ht : s.t.toNat < 80)
    (h2 : s.W[s.t.toNat - 2]? = some w2) (h7 : s.W[s.t.toNat - 7]? = some w7)
    (h15 : s.W[s.t.toNat - 15]? = some w15) (hw16 : s.W[s.t.toNat - 16]? = some w16) :
    execWexp s = .next (if s.t = 79 then
        { s with W := s.W.set s.t.toNat (expandWord w2 w7 w15 w16) ht, phase := Phase.loadv }
      else { s with W := s.W.set s.t.toNat (expandWord w2 w7 w15 w16) ht, t := s.t + 1 }) := by
  rw [execWexp, State.tap_ok.mpr ⟨by omega, h2⟩, withOperand_ok, State.tap_ok.mpr ⟨by omega, h7⟩, withOperand_ok,
    State.tap_ok.mpr ⟨by omega, h15⟩, withOperand_ok, State.tap_ok.mpr ⟨h16, hw16⟩, withOperand_ok,
    State.setScheduleWord_ok.mpr ⟨ht, rfl⟩, withOperand_ok]

theorem execRound_eq {kt wt : Word} (hk : kTable[s.t.toNat]? = some kt) (hw : s.W[s.t.toNat]? = some wt) :
    execRound s = .next (if s.t = 79 then { s with v := roundFn s.v kt wt, phase := Phase.feed }
      else { s with v := roundFn s.v kt wt, t := s.t + 1 }) := by
  rw [execRound, roundConstant_ok.mpr hk, withOperand_ok, State.scheduleWord_ok.mpr hw, withOperand_ok]

/-! ## The padding stage: `P` is written byte by byte from address 0 on, and the bytes are `pad(M)` -/

/-- The first of what is left of a list, and what is left after it. -/
theorem getElem?_and_drop_succ {α : Type} {l : List α} {n : Nat} {x : α} {xs : List α} (h : l.drop n = x :: xs) :
    l[n]? = some x ∧ l.drop (n + 1) = xs := by
  rw [← List.head?_drop, ← List.tail_drop, h]
  exact ⟨rfl, rfl⟩

/-- PAD_COPY copies what is left of the Message (R150). -/
theorem engineRun_padCopy {b : Byte} {bs : List Byte} (hp : s.phase = Phase.padCopy) (hL : s.L ≤ s.par.msgCap)
    (hend : s.j + bs.length + 1 = s.L) (hmsg : s.holds .msg s.j (b :: bs)) :
    EngineRun (bs.length + 1) s
      { s with p := Memory.writeAll s.p s.j (b :: bs), j := s.L - 1, phase := Phase.padMark } := by
  have hbusy : isBusy s.phase = true := by rw [hp]; rfl
  induction bs generalizing s b with
  | nil =>
    have hturn := (engineTurn_padCopy hp).trans (execPadCopy_eq (by omega) (hmsg 0 (by simp)))
    have hlast : s.j + 1 = s.L := hend
    have hj : s.L - 1 = s.j := by omega
    rw [if_pos hlast] at hturn
    rw [hj]
    exact .single hbusy hturn
  | cons c cs ih =>
    have hturn := (engineTurn_padCopy hp).trans (execPadCopy_eq (by omega) (hmsg 0 (by simp)))
    rw [List.length_cons] at hend
    rw [if_neg (by omega)] at hturn
    refine .cons hbusy hturn (ih hp hL ?_ ?_ hbusy)
    · show s.j + 1 + cs.length + 1 = s.L
      omega
    · intro n hn
      have hmore := hmsg (n + 1) (by simpa using hn)
      rwa [show s.j + (n + 1) = s.j + 1 + n by omega] at hmore

/-- INIT of a Message that fits, and PAD_COPY of all of it: of an empty Message nothing is copied (R124, R150). -/
theorem engineRun_init_padCopy {M : List Byte} (hp : s.phase = Phase.init) (hlen : s.msgLen = M.length)
    (hcap : M.length ≤ s.par.msgCap) (hmsg : s.holds .msg 0 M) :
    EngineRun (1 + M.length) s
      { s with
        p := Memory.writeAll s.p 0 M
        plen := 0
        H := ivTable
        L := s.msgLen
        j := s.msgLen - 1
        phase := Phase.padMark } := by
  have hbusy : isBusy s.phase = true := by rw [hp]; rfl
  obtain ⟨t, ht⟩ := execInit_answered s
  obtain ⟨hbig, -⟩ | ⟨-, rfl⟩ := execInit_next ht
  · omega
  have hturn := (engineTurn_init hp).trans ht
  cases M with
  | nil =>
    have h0 : s.msgLen - 1 = 0 := by simp [hlen]
    rw [if_neg (by simp [hlen])] at hturn
    rw [h0]
    exact .single hbusy hturn
  | cons b bs =>
    rw [if_pos (by simp [hlen])] at hturn
    refine (EngineRun.single hbusy hturn).trans (engineRun_padCopy rfl ?_ ?_ hmsg)
    · show s.msgLen ≤ s.par.msgCap
      omega
    · show 0 + bs.length + 1 = s.msgLen
      simp [hlen]

/-- PAD_ZERO writes the zeros that are left (R152). -/
theorem engineRun_padZero {n : Nat} (hp : s.phase = Phase.padZero) (hend : s.j + n + 1 = s.k.toNat)
    (hcap : s.zeroAddr + n < s.par.padCap) :
    EngineRun (n + 1) s
      { s with p := Memory.writeAll s.p s.zeroAddr (List.replicate (n + 1) 0#8), j := 0, phase := Phase.padLen } := by
  have hbusy : isBusy s.phase = true := by rw [hp]; rfl
  induction n generalizing s with
  | zero =>
    have hturn := (engineTurn_padZero hp).trans (execPadZero_eq hcap)
    rw [if_pos hend] at hturn
    exact .single hbusy hturn
  | succ n ih =>
    have hturn := (engineTurn_padZero hp).trans (execPadZero_eq (by omega))
    rw [if_neg (by omega)] at hturn
    refine .cons hbusy hturn (ih hp ?_ ?_ hbusy)
    · show s.j + 1 + n + 1 = s.k.toNat
      omega
    · show s.L + 1 + (s.j + 1) + n < s.par.padCap
      unfold State.zeroAddr at hcap
      omega

/-- PAD_MARK and, when there are zeros to write, all of PAD_ZERO (R151, R152). -/
theorem engineRun_padMark_padZero (hp : s.phase = Phase.padMark) (hcap : s.L + padZeros s.L < s.par.padCap) :
    EngineRun (1 + padZeros s.L) s
      { s with
        p := Memory.writeAll s.p s.L (0x80#8 :: List.replicate (padZeros s.L) 0#8)
        k := BitVec.ofNat 7 (padZeros s.L)
        j := 0
        phase := Phase.padLen } := by
  have hbusy : isBusy s.phase = true := by rw [hp]; rfl
  have hturn := (engineTurn_padMark hp).trans (execPadMark_eq (by omega))
  have hk := padZeros_toNat s.L
  generalize padZeros s.L = k at *
  cases k with
  | zero =>
    rw [if_neg (by omega)] at hturn
    exact .single hbusy hturn
  | succ n =>
    rw [if_pos (by omega)] at hturn
    refine (EngineRun.single hbusy hturn).trans (engineRun_padZero rfl ?_ ?_)
    · show 0 + n + 1 = (BitVec.ofNat 7 (n + 1)).toNat
      omega
    · show s.L + 1 + 0 + n < s.par.padCap
      omega

/-- PAD_LEN writes what is left of the length field (R153). -/
theorem engineRun_padLen {b : Byte} {bs : List Byte} (hp : s.phase = Phase.padLen)
    (hrest : (lengthField s.L).drop s.j = b :: bs) (hcap : s.lenAddr + bs.length < s.par.padCap) :
    EngineRun (bs.length + 1) s
      { s with
        p := Memory.writeAll s.p s.lenAddr (b :: bs)
        plen := s.paddedLength
        j := 15
        N := s.paddedLength / 128
        i := 0
        t := 0
        phase := if s.op = 1 then Phase.done else Phase.wload } := by
  have hbusy : isBusy s.phase = true := by rw [hp]; rfl
  induction bs generalizing s b with
  | nil =>
    obtain ⟨hb, -⟩ := getElem?_and_drop_succ hrest
    have hturn := (engineTurn_padLen hp).trans (execPadLen_eq hb hcap)
    have hleft : 16 - s.j = 1 := by simpa using congrArg List.length hrest
    have hlast : s.j = 15 := by omega
    rw [if_pos hlast] at hturn
    rw [← hlast]
    exact .single hbusy hturn
  | cons c cs ih =>
    rw [List.length_cons] at hcap
    obtain ⟨hb, hnext⟩ := getElem?_and_drop_succ hrest
    have hturn := (engineTurn_padLen hp).trans (execPadLen_eq hb (by omega))
    have hleft : 16 - s.j = cs.length + 1 + 1 := by simpa using congrArg List.length hrest
    rw [if_neg (by omega)] at hturn
    refine .cons hbusy hturn (ih hp hnext ?_ hbusy)
    show s.L + 1 + s.k.toNat + (s.j + 1) + cs.length < s.par.padCap
    unfold State.lenAddr at hcap
    omega

/-- The engine right after the padding stage of the Message `M` (R124, R150 to R153). -/
def State.padded (s : State) (M : List Byte) : State :=
  { s with
    p := Memory.writeAll s.p 0 (pad M)
    plen := padLength s.msgLen
    H := ivTable
    L := s.msgLen
    k := BitVec.ofNat 7 (padZeros s.msgLen)
    j := 15
    N := padLength s.msgLen / 128
    i := 0
    t := 0
    phase := if s.op = 1 then Phase.done else Phase.wload }

theorem holds_padded (s : State) (M : List Byte) : (s.padded M).holds .p 0 (pad M) :=
  State.holds_of_mem_eq_writeAll rfl

/-- The parts of the padding, written one after the other, are the padding. -/
theorem Memory.writeAll_pad (m : Memory) (M : List Byte) :
    Memory.writeAll (Memory.writeAll (Memory.writeAll m 0 M) M.length
        (0x80#8 :: List.replicate (padZeros M.length) 0#8)) (M.length + 1 + padZeros M.length) (lengthField M.length) =
      Memory.writeAll m 0 (pad M) := by
  rw [pad, List.append_assoc M, List.singleton_append, Memory.writeAll_append, Memory.writeAll_append]
  simp only [List.length_append, List.length_cons, List.length_replicate, Nat.zero_add]
  rw [Nat.add_right_comm, Nat.add_assoc M.length]

/-- The padding stage writes `pad(M)` to `P` (R154), in one turn for INIT and one for each byte of the padding. -/
theorem engineRun_padding {M : List Byte} (hp : s.phase = Phase.init) (hlen : s.msgLen = M.length)
    (hcap : M.length ≤ s.par.msgCap) (hmsg : s.holds .msg 0 M) :
    EngineRun (paddedSteps M.length) s (s.padded M) := by
  have hfit := padLength_le_padCap hcap
  have hk := padZeros_toNat M.length
  unfold padLength at hfit
  obtain ⟨b, bs, hLF⟩ := List.exists_cons_of_length_eq_add_one (lengthField_length M.length)
  have hbs : bs.length = 15 := by simpa [hLF] using lengthField_length M.length
  have hcopy := engineRun_init_padCopy hp hlen hcap hmsg
  rw [← hlen] at hfit hk hLF
  have hmark := hcopy.trans (engineRun_padMark_padZero rfl (by show s.msgLen + padZeros s.msgLen < s.par.padCap; omega))
  have hrun := hmark.trans (engineRun_padLen rfl hLF (by
    show s.msgLen + 1 + (BitVec.ofNat 7 (padZeros s.msgLen)).toNat + 0 + bs.length < s.par.padCap; omega))
  have hsteps : 1 + M.length + (1 + padZeros s.msgLen) + (bs.length + 1) = paddedSteps M.length := by
    rw [paddedSteps, padLength, hlen]; omega
  have hbytes := Memory.writeAll_pad s.p M
  rw [← hlen, hLF] at hbytes
  rw [← hsteps, State.padded, ← hbytes]
  simp only [State.lenAddr, State.paddedLength, hk] at hrun
  exact hrun

/-! ## The block stage: the schedule, the rounds and the feed-forward -/

/-- A word set right after the first `n` words is the next of them. -/
theorem take_succ_set (W : Vector Word 80) {n : Nat} (w : Word) (h : n < 80) :
    (W.set n w h).toList.take (n + 1) = W.toList.take n ++ [w] := by
  rw [List.take_add_one, Vector.toList_set, List.take_set_of_le le_rfl]
  simp [h]

/-- One of the first `n` words of `W`, as the schedule's recurrence takes it. -/
theorem getD_take_toList {W : Vector Word 80} {n m : Nat} {w : Word} (hw : W[m]? = some w) (hm : m < n) :
    (W.toList.take n).getD m 0 = w := by
  simp [List.getD_eq_getElem?_getD, hm, hw]

/-- The counter `t` before its last value, and after one more turn (10_state.md R27). -/
theorem toNat_succ_of_lt {t last : BitVec 7} (h : t.toNat < last.toNat) : t ≠ last ∧ (t + 1).toNat = t.toNat + 1 := by
  have hne : t ≠ last := fun heq => by simp [heq] at h
  exact ⟨hne, (toNat_succ_le h.le hne).1⟩

/-- The bytes of a block at which WLOAD finds word `n` (R176, 20_memory.md R64). -/
theorem holds_wordAddr {B : List Byte} (hblock : s.holds .p (128 * s.i) B) :
    s.holds .p s.wordAddr ((B.drop (8 * s.t.toNat)).take 8) := by
  intro x hx
  simp only [List.length_take, List.length_drop] at hx
  rw [List.getElem?_take_of_lt (by omega), List.getElem?_drop, State.wordAddr, Nat.add_assoc]
  exact hblock _ (by omega)

/-- A WLOAD turn adds one word of the schedule to those that stand in `W` (R176). -/
theorem engineTurn_wload_word {B : List Byte} (hp : s.phase = Phase.wload) (hB : B.length = 128)
    (hcap : 128 * s.i + 128 ≤ s.par.padCap) (hblock : s.holds .p (128 * s.i) B) (ht : s.t.toNat ≤ 15)
    (hW : s.W.toList.take s.t.toNat = schedWords B s.t.toNat) :
    ∃ W, engineTurn s = .next (if s.t = 15 then { s with W := W, t := 16, phase := Phase.wexp }
        else { s with W := W, t := s.t + 1 }) ∧
      W.toList.take (s.t.toNat + 1) = schedWords B (s.t.toNat + 1) := by
  have hlen : ((B.drop (8 * s.t.toNat)).take 8).length = 8 := by simp only [List.length_take, List.length_drop]; omega
  have haddr : s.wordAddr + 8 ≤ s.par.padCap := by unfold State.wordAddr; omega
  refine ⟨_, (engineTurn_wload hp).trans (execWload_eq (by omega) hlen haddr (holds_wordAddr hblock)), ?_⟩
  rw [take_succ_set, hW, schedWords, nextScheduleWord, if_pos (by omega)]

/-- WLOAD loads what is left of the sixteen words of the block (R176). -/
theorem engineRun_wload {B : List Byte} {n : Nat} (hp : s.phase = Phase.wload) (hB : B.length = 128)
    (hcap : 128 * s.i + 128 ≤ s.par.padCap) (hblock : s.holds .p (128 * s.i) B) (ht : s.t.toNat + n = 15)
    (hW : s.W.toList.take s.t.toNat = schedWords B s.t.toNat) :
    ∃ W, EngineRun (n + 1) s { s with W := W, t := 16, phase := Phase.wexp } ∧ W.toList.take 16 = schedWords B 16 := by
  have hbusy : isBusy s.phase = true := by rw [hp]; rfl
  induction n generalizing s with
  | zero =>
    obtain ⟨W, hturn, hW'⟩ := engineTurn_wload_word hp hB hcap hblock (by omega) hW
    have hlast : s.t = 15 := BitVec.eq_of_toNat_eq ht
    rw [if_pos hlast] at hturn
    rw [hlast] at hW'
    exact ⟨W, .single hbusy hturn, hW'⟩
  | succ n ih =>
    obtain ⟨W, hturn, hW'⟩ := engineTurn_wload_word hp hB hcap hblock (by omega) hW
    obtain ⟨hmore, hsucc⟩ := toNat_succ_of_lt (t := s.t) (last := 15) (by show _ < 15; omega)
    rw [if_neg hmore] at hturn
    rw [← hsucc] at hW'
    obtain ⟨W', hrun, hall⟩ := ih (s := { s with W := W, t := s.t + 1 }) hp hcap hblock
      (by show (s.t + 1).toNat + n = 15; omega) hW' hbusy
    exact ⟨W', .cons hbusy hturn hrun, hall⟩

/-- A WEXP turn adds one word of the schedule to those that stand in `W` (R177). -/
theorem engineTurn_wexp_word {B : List Byte} (hp : s.phase = Phase.wexp) (h16 : 16 ≤ s.t.toNat) (ht : s.t.toNat ≤ 79)
    (hW : s.W.toList.take s.t.toNat = schedWords B s.t.toNat) :
    ∃ W, engineTurn s = .next (if s.t = 79 then { s with W := W, phase := Phase.loadv }
        else { s with W := W, t := s.t + 1 }) ∧
      W.toList.take (s.t.toNat + 1) = schedWords B (s.t.toNat + 1) := by
  have hword {m : Nat} (hm : m < s.t.toNat) : s.W[m]? = some ((schedWords B s.t.toNat).getD m 0) := by
    have hw : s.W[m]? = some s.W[m] := Vector.getElem?_eq_getElem (by omega)
    rw [← hW, getD_take_toList hw hm, hw]
  refine ⟨_, (engineTurn_wexp hp).trans (execWexp_eq h16 (by omega) (hword (by omega)) (hword (by omega))
    (hword (by omega)) (hword (by omega))), ?_⟩
  rw [take_succ_set, hW, schedWords, nextScheduleWord, if_neg (by omega)]

/-- WEXP computes what is left of the eighty words of the schedule (R177). -/
theorem engineRun_wexp {B : List Byte} {n : Nat} (hp : s.phase = Phase.wexp) (h16 : 16 ≤ s.t.toNat) (ht : s.t.toNat + n = 79)
    (hW : s.W.toList.take s.t.toNat = schedWords B s.t.toNat) :
    ∃ W, EngineRun (n + 1) s { s with W := W, t := 79, phase := Phase.loadv } ∧ W.toList = sched B := by
  have hbusy : isBusy s.phase = true := by rw [hp]; rfl
  induction n generalizing s with
  | zero =>
    obtain ⟨W, hturn, hW'⟩ := engineTurn_wexp_word hp h16 (by omega) hW
    have hlast : s.t = 79 := BitVec.eq_of_toNat_eq ht
    rw [if_pos hlast] at hturn
    rw [hlast, List.take_of_length_le (by simp)] at hW'
    rw [← hlast]
    exact ⟨W, .single hbusy hturn, hW'⟩
  | succ n ih =>
    obtain ⟨W, hturn, hW'⟩ := engineTurn_wexp_word hp h16 (by omega) hW
    obtain ⟨hmore, hsucc⟩ := toNat_succ_of_lt (t := s.t) (last := 79) (by show _ < 79; omega)
    rw [if_neg hmore] at hturn
    rw [← hsucc] at hW'
    obtain ⟨W', hrun, hall⟩ := ih (s := { s with W := W, t := s.t + 1 }) hp (by show 16 ≤ (s.t + 1).toNat; omega)
      (by show (s.t + 1).toNat + n = 79; omega) hW' hbusy
    exact ⟨W', .cons hbusy hturn hrun, hall⟩

/-- The schedule stage leaves `sched(B)` in `W`, whatever `W` held before (R178). -/
theorem engineRun_schedule {B : List Byte} (hp : s.phase = Phase.wload) (ht : s.t = 0) (hB : B.length = 128)
    (hcap : 128 * s.i + 128 ≤ s.par.padCap) (hblock : s.holds .p (128 * s.i) B) :
    ∃ W, EngineRun 80 s { s with W := W, t := 79, phase := Phase.loadv } ∧ W.toList = sched B := by
  obtain ⟨W, hload, hW⟩ := engineRun_wload (n := 15) hp hB hcap hblock (by rw [ht]; rfl) (by rw [ht]; rfl)
  obtain ⟨W', hexpand, hW'⟩ := engineRun_wexp (n := 63) (s := { s with W := W, t := 16, phase := Phase.wexp }) rfl le_rfl rfl hW
  exact ⟨W', hload.trans hexpand, hW'⟩

theorem rounds_cons (v : Working) (kw : Word × Word) (kws : List (Word × Word)) :
    rounds v (kw :: kws) = rounds (roundFn v kw.1 kw.2) kws := rfl

/-- A ROUND turn takes the round constant and the schedule word of its index (R196). -/
theorem engineTurn_round_word {kw : Word × Word} (hp : s.phase = Phase.round)
    (hkw : (kTable.zip s.W.toList)[s.t.toNat]? = some kw) :
    engineTurn s = .next (if s.t = 79 then { s with v := roundFn s.v kw.1 kw.2, phase := Phase.feed }
      else { s with v := roundFn s.v kw.1 kw.2, t := s.t + 1 }) := by
  obtain ⟨hk, hw⟩ := List.getElem?_zip_eq_some.mp hkw
  exact (engineTurn_round hp).trans (execRound_eq hk (by simpa using hw))

/-- ROUND performs what is left of the eighty rounds (R196). -/
theorem engineRun_round {kw : Word × Word} {kws : List (Word × Word)} (hp : s.phase = Phase.round)
    (hrest : (kTable.zip s.W.toList).drop s.t.toNat = kw :: kws) :
    EngineRun (kws.length + 1) s { s with v := rounds s.v (kw :: kws), t := 79, phase := Phase.feed } := by
  have hbusy : isBusy s.phase = true := by rw [hp]; rfl
  induction kws generalizing s kw with
  | nil =>
    obtain ⟨hkw, -⟩ := getElem?_and_drop_succ hrest
    have hturn := engineTurn_round_word hp hkw
    have hleft : 80 - s.t.toNat = 1 := by simpa using congrArg List.length hrest
    have hlast : s.t = 79 := BitVec.eq_of_toNat_eq (by show _ = 79; omega)
    rw [if_pos hlast] at hturn
    rw [← hlast]
    exact .single hbusy hturn
  | cons kw' kws ih =>
    obtain ⟨hkw, hnext⟩ := getElem?_and_drop_succ hrest
    have hturn := engineTurn_round_word hp hkw
    have hleft : 80 - s.t.toNat = kws.length + 1 + 1 := by simpa using congrArg List.length hrest
    obtain ⟨hmore, hsucc⟩ := toNat_succ_of_lt (t := s.t) (last := 79) (by show _ < 79; omega)
    rw [if_neg hmore] at hturn
    rw [← hsucc] at hnext
    rw [rounds_cons]
    exact .cons hbusy hturn (ih hp hnext hbusy)

/-- LOADV and the eighty rounds, on the schedule that stands in `W` (R195, R196). -/
theorem engineRun_rounds (hp : s.phase = Phase.loadv) :
    EngineRun 81 s
      { s with v := rounds s.H.toWorking (kTable.zip s.W.toList), t := 79, phase := Phase.feed } := by
  have hbusy : isBusy s.phase = true := by rw [hp]; rfl
  have hlen : (kTable.zip s.W.toList).length = 79 + 1 := by simp
  obtain ⟨kw, kws, hall⟩ := List.exists_cons_of_length_eq_add_one hlen
  rw [hall, List.length_cons, Nat.add_right_cancel_iff] at hlen
  rw [hall, show 81 = kws.length + 1 + 1 by omega]
  exact .cons hbusy (engineTurn_loadv hp) (engineRun_round rfl hall)

/-- The 162 turns of a block leave `compress(H, block)` in `H`, and FEED goes on to the next block or to FINALIZE (R198, R199). -/
theorem engineRun_block {B : List Byte} (hp : s.phase = Phase.wload) (ht : s.t = 0) (hB : B.length = 128)
    (hcap : 128 * s.i + 128 ≤ s.par.padCap) (hblock : s.holds .p (128 * s.i) B) :
    ∃ v W, EngineRun 162 s (if s.i + 1 < s.N then
        { s with v := v, H := compress s.H B, W := W, i := s.i + 1, t := 0, phase := Phase.wload }
      else { s with v := v, H := compress s.H B, W := W, t := 79, phase := Phase.finalize }) := by
  obtain ⟨W, hschedule, hW⟩ := engineRun_schedule hp ht hB hcap hblock
  have hrounds := hschedule.trans (engineRun_rounds rfl)
  rw [compress, ← hW]
  generalize rounds s.H.toWorking (kTable.zip W.toList) = v at hrounds ⊢
  exact ⟨v, W, hrounds.trans (.single rfl (engineTurn_feed rfl))⟩

/-- Each block of the bytes that stand in `P` from address 0 on stands at its own address (20_memory.md R64). -/
theorem holds_block {P : List Byte} {i : Nat} (h : s.holds .p 0 P) : s.holds .p (128 * i) (block P i) := by
  intro x hx
  simp only [block, List.length_take, List.length_drop] at hx
  rw [block, List.getElem?_take_of_lt (by omega), List.getElem?_drop]
  have hbyte := h (128 * i + x) (by omega)
  rwa [Nat.zero_add] at hbyte

/-- The blocks that are left, one after the other (R200). -/
theorem engineRun_chain {P : List Byte} {n : Nat} (hp : s.phase = Phase.wload) (ht : s.t = 0) (hN : s.i + n + 1 = s.N)
    (hlen : P.length = 128 * s.N) (hcap : P.length ≤ s.par.padCap) (hP : s.holds .p 0 P) :
    ∃ v W, EngineRun (162 * (n + 1)) s
      { s with
        v := v
        H := ((List.range' s.i (n + 1)).map (block P)).foldl compress s.H
        W := W
        i := s.N - 1
        t := 79
        phase := Phase.finalize } := by
  induction n generalizing s with
  | zero =>
    obtain ⟨v, W, hrun⟩ := engineRun_block hp ht (block_length (by omega)) (by omega) (holds_block hP)
    have hi : s.N - 1 = s.i := by omega
    rw [if_neg (by omega)] at hrun
    rw [hi]
    exact ⟨v, W, hrun⟩
  | succ n ih =>
    obtain ⟨v, W, hrun⟩ := engineRun_block hp ht (block_length (by omega)) (by omega) (holds_block hP)
    rw [if_pos (by omega)] at hrun
    obtain ⟨v', W', hrest⟩ := ih
      (s := { s with v := v, H := compress s.H (block P s.i), W := W, i := s.i + 1, t := 0, phase := Phase.wload })
      rfl rfl (by show s.i + 1 + n + 1 = s.N; omega) hlen hcap hP
    rw [List.range'_succ, List.map_cons, List.foldl_cons, Nat.mul_succ, Nat.add_comm]
    exact ⟨v', W', hrun.trans hrest⟩

/-- FINALIZE writes the digits of the hash state to `DIG[0..127]` (R222). -/
theorem engineRun_finalize (hp : s.phase = Phase.finalize) :
    ∃ m, EngineRun 1 s { s with dig := m, phase := Phase.done } ∧
      State.holds { s with dig := m, phase := Phase.done } .dig 0 (hexdigest s.H) := by
  have hbusy : isBusy s.phase = true := by rw [hp]; rfl
  obtain ⟨m, hturn, hdig, -⟩ := execFinalize_eq s
  exact ⟨m, .single hbusy ((engineTurn_finalize hp).trans hturn), hdig⟩

/-- A DIGEST from INIT on, of a Message that fits: the digest stands in `DIG`, the padding in `P`, and beside them only the registers
of the block stage differ from the end of the padding stage (R230, R236). -/
theorem engineRun_digest {M : List Byte} (hp : s.phase = Phase.init) (hop : s.op = 0) (hlen : s.msgLen = M.length)
    (hcap : M.length ≤ s.par.msgCap) (hmsg : s.holds .msg 0 M) :
    ∃ u, EngineRun (digestSteps M.length) s u ∧ u.holds .dig 0 (digest M) ∧
      u = { s.padded M with v := u.v, H := u.H, W := u.W, i := u.i, t := u.t, dig := u.dig, phase := Phase.done } := by
  have hpad := engineRun_padding hp hlen hcap hmsg
  have hN : (s.padded M).N = padLength M.length / 128 := by rw [← hlen]; rfl
  have hmod := padLength_mod M.length
  have hpos := padLength_div_pos M.length
  obtain ⟨n, hn⟩ := Nat.exists_eq_add_one.mpr hpos
  have hwload : (s.padded M).phase = Phase.wload := by simp [State.padded, hop]
  obtain ⟨v, W, hchain⟩ := engineRun_chain (n := n) hwload rfl (by rw [hN, hn]; exact congrArg (· + 1) (Nat.zero_add n))
    (by rw [pad_length, hN]; omega) (by rw [pad_length]; exact padLength_le_padCap hcap) (holds_padded s M)
  have hH : ((List.range' (s.padded M).i (n + 1)).map (block (pad M))).foldl compress (s.padded M).H = chain (pad M) := by
    rw [chain, blocks, pad_length, hn, List.range_eq_range']; rfl
  rw [hH] at hchain
  obtain ⟨m, hfinal, hdig⟩ := engineRun_finalize (s := { s.padded M with
    v := v, H := chain (pad M), W := W, i := (s.padded M).N - 1, t := 79, phase := Phase.finalize }) rfl
  have hsteps : digestSteps M.length = paddedSteps M.length + 162 * (n + 1) + 1 := by
    rw [digestSteps, paddedSteps, hn]; omega
  rw [hsteps]
  exact ⟨_, (hpad.trans hchain).trans hfinal, hdig, rfl⟩

end

end Sys2Proof.Machine

/-! PROOF. The two pseudo-instructions as host scripts (spec/30_encoding.md R98, R99), line by line. -/

namespace Sys2Proof.Machine

section
variable {s : State} {rest : List Turn}

/-- `WRMSG`: the bytes are written to the Message one after the other. -/
theorem run_wrmsg {a : Nat} {M : List Byte} (hs : s.agenda = ScriptLine.turns (.wrmsg a M) ++ rest)
    (hq : isQuiescent s.phase = true) (hcap : a + M.length ≤ s.par.msgCap) :
    run M.length s = .next { s with msg := Memory.writeAll s.msg a M, agenda := rest } := by
  induction M generalizing s a with
  | nil =>
    have hrest : s.agenda = rest := hs
    subst hrest; rfl
  | cons b M ih =>
    rw [List.length_cons] at hcap
    have hhost : s.agenda = .host (.writeMsg a b) :: (ScriptLine.turns (.wrmsg (a + 1) M) ++ rest) := hs
    refine run_cons ((step_host hhost).trans (hostWriteMsg_next.mpr ⟨?_, hq, rfl⟩)) (ih rfl hq ?_)
    · show a < s.par.msgCap
      omega
    · show a + 1 + M.length ≤ s.par.msgCap
      omega

/-- `WRLEN`. -/
theorem step_wrlen {n : Nat} (hs : s.agenda = .host (.writeMsgLen n) :: rest) (hq : isQuiescent s.phase = true) :
    step s = .next { s with msgLen := n, msgLenWritten := true, agenda := rest } :=
  (step_host hs).trans (hostWriteMsgLen_next.mpr ⟨hq, rfl⟩)

/-- `CMD` of a byte whose command starts the operation `op` (R232). -/
theorem step_cmd {c : BitVec 8} {op : BitVec 1} (hs : s.agenda = .host (.writeCmd c) :: rest) (hq : isQuiescent s.phase = true)
    (hc : ∀ u, runCode (.cmd c) u = onCommand u (·.start op)) : step s = .next (State.start { s with agenda := rest } op) :=
  (step_host hs).trans ((hc _).trans (onCommand_quiescent (s := { s with agenda := rest }) hq))

/-- Reads that give the host, one after the other, the readings that stand for them. -/
theorem run_reads {move : Nat → HostMove} {reading : Nat → Reading} {as : List Nat}
    (hs : s.agenda = as.map (fun a => .host (move a)) ++ rest)
    (hread : ∀ a ∈ as, ∀ agenda readings, hostTurn (move a) { s with agenda := agenda, readings := readings } =
      .next (State.observe { s with agenda := agenda, readings := readings } (reading a))) :
    run as.length s = .next { s with agenda := rest, readings := (as.map reading).reverse ++ s.readings } := by
  induction as generalizing s with
  | nil =>
    have hrest : s.agenda = rest := hs
    subst hrest; rfl
  | cons a as ih =>
    have hhost : s.agenda = .host (move a) :: (as.map (fun a => .host (move a)) ++ rest) := hs
    have hstep := (step_host hhost).trans (hread a List.mem_cons_self _ s.readings)
    have hrun := run_cons hstep (ih rfl fun x hx => hread x (List.mem_cons_of_mem a hx))
    rw [List.length_cons, hrun]
    simp [State.observe]

/-- The state in which the operation `op` has just been accepted, after the lines of a script that give the Message and the command. -/
def State.commanded (s : State) (M : List Byte) (op : BitVec 1) (rest : List Turn) : State :=
  State.start { s with msg := Memory.writeAll s.msg 0 M, msgLen := M.length, msgLenWritten := true, agenda := rest } op

theorem holds_commanded (s : State) (M : List Byte) (op : BitVec 1) (rest : List Turn) :
    (s.commanded M op rest).holds .msg 0 M :=
  State.holds_of_mem_eq_writeAll rfl

/-- `STATUS` after a DIGEST: the `DONE` bit and the phase code (10_state.md R29). -/
theorem statusWord_of_digest_done {s : State} (hp : s.phase = Phase.done) (he : s.err = 0) (hop : s.op = 0) :
    statusWord s = 0x002c#16 := by
  rw [statusWord, hp, he, hop]; rfl

/-- `STATUS` after a PADDED: bit 7 shows `op` (10_state.md R29). -/
theorem statusWord_of_padded_done {s : State} (hp : s.phase = Phase.done) (he : s.err = 0) (hop : s.op = 1) :
    statusWord s = 0x00ac#16 := by
  rw [statusWord, hp, he, hop]; rfl

/-- The first four lines of a pseudo-instruction, whose operation is a run of the engine that ends in DONE: what the host has read is
the `STATUS` of the poll that ends `WAIT` (R98, R99). -/
theorem run_until_done {M : List Byte} {c : BitVec 8} {op : BitVec 1} {n : Nat} {u : State}
    (hs : s.agenda = scriptTurns [.wrmsg 0 M, .wrlen M.length, .cmd c, .wait] ++ rest)
    (hq : isQuiescent s.phase = true) (hcap : M.length ≤ s.par.msgCap)
    (hc : ∀ u, runCode (.cmd c) u = onCommand u (·.start op))
    (hrun : EngineRun n (s.commanded M op (.wait :: rest)) u) (hu : u.agenda = .wait :: rest) (hdone : u.phase = Phase.done) :
    run (M.length + 2 + n + 1) s = .next { u with agenda := rest, readings := .status (statusWord u) :: u.readings } := by
  have hlines : s.agenda =
      ScriptLine.turns (.wrmsg 0 M) ++ .host (.writeMsgLen M.length) :: .host (.writeCmd c) :: .wait :: rest := by
    rw [hs]; simp [scriptTurns, ScriptLine.turns]
  have hmsg := run_wrmsg hlines hq (by omega)
  have hcommand := run_trans hmsg (run_cons (n := 1) (step_wrlen rfl hq) (run_cons (n := 0) (step_cmd rfl hq hc) rfl))
  have hengine := hrun.run_eq (.inr ⟨rest, rfl⟩)
  exact run_trans (run_trans hcommand hengine) (run_cons (n := 0) (step_wait_ends hu (.inl hdone)) rfl)

theorem getElem?_eq_some_getD {bs : List Byte} {n : Nat} (h : n < bs.length) : bs[n]? = some (bs.getD n 0) := by
  rw [List.getElem?_eq_getElem h, List.getD_eq_getElem _ _ h]

/-- `RDDIG` after a DIGEST reads the digest. -/
theorem run_rddig {bs : List Byte} (hs : s.agenda = ScriptLine.turns .rddig ++ rest) (hp : s.phase = Phase.done) (hop : s.op = 0)
    (hlen : bs.length = 128) (hdig : s.holds .dig 0 bs) :
    run 128 s = .next { s with
      agenda := rest
      readings := ((List.range 128).map fun a => Reading.dig a (bs.getD a 0)).reverse ++ s.readings } := by
  refine run_reads (as := List.range 128) hs fun a ha agenda readings => ?_
  have ha := List.mem_range.mp ha
  have hbyte := hdig a (by omega)
  rw [Nat.zero_add, getElem?_eq_some_getD (by omega)] at hbyte
  exact hostTurn_readDig_done hp hop ha hbyte

/-- `RDP` of the whole padding reads it. -/
theorem run_rdp {bs : List Byte} (hs : s.agenda = ScriptLine.turns (.rdp 0 bs.length) ++ rest) (hp : s.phase = Phase.done)
    (hplen : s.plen = bs.length) (hcap : bs.length ≤ s.par.padCap) (hbytes : s.holds .p 0 bs) :
    run bs.length s = .next { s with
      agenda := rest
      readings := ((List.range bs.length).map fun a => Reading.p a (bs.getD a 0)).reverse ++ s.readings } := by
  rw [ScriptLine.turns, ← List.range_eq_range'] at hs
  have hrun := run_reads (reading := fun a => Reading.p a (bs.getD a 0)) hs fun a ha agenda readings => by
    have ha := List.mem_range.mp ha
    have hbyte := hbytes a ha
    rw [Nat.zero_add, getElem?_eq_some_getD ha] at hbyte
    exact hostTurn_readP_done hp (hplen ▸ ha) (by show a < s.par.padCap; omega) hbyte
  rwa [List.length_range] at hrun

/-- `RDPLEN` in DONE. -/
theorem step_rdplen (hs : s.agenda = .host .readPlen :: rest) (hp : s.phase = Phase.done) :
    step s = .next { s with agenda := rest, readings := .plen s.plen :: s.readings } :=
  (step_host hs).trans (hostTurn_readPlen_done hp)

end

/-- Settles O56: the Message is given, the engine computes its digest while the host waits, and the host reads `DIG`. -/
theorem digestScriptReturnsDigest : Obligations.DigestScriptReturnsDigest := by
  intro s M hs hq hcap
  have hlines : s.agenda = scriptTurns [.wrmsg 0 M, .wrlen M.length, .cmd 0x01#8, .wait] ++ ScriptLine.turns .rddig := by
    rw [hs]; simp [scriptTurns, digestScript]
  obtain ⟨u, hdigest, hdig, hu⟩ := engineRun_digest (s := s.commanded M 0 (.wait :: ScriptLine.turns .rddig)) rfl rfl rfl hcap
    (holds_commanded s M 0 _)
  have hphase : u.phase = Phase.done := congrArg State.phase hu
  have hop : u.op = 0 := congrArg State.op hu
  have herr : u.err = 0 := congrArg State.err hu
  have hagenda : u.agenda = .wait :: ScriptLine.turns .rddig := congrArg State.agenda hu
  have hreadings : u.readings = s.readings := by rw [hu]; rfl
  have hdone := run_until_done hlines hq hcap (fun _ => rfl) hdigest hagenda hphase
  rw [statusWord_of_digest_done hphase herr hop, hreadings] at hdone
  have hread := run_trans hdone (run_rddig (rest := []) (List.append_nil _).symm hphase hop (hexdigest_length _) hdig)
  exact ⟨_, hread, rfl, (List.append_assoc _ [_] s.readings).symm⟩

/-- Settles O57: the Message is given, the engine writes its padding while the host waits, and the host reads `PLEN` and `P`. -/
theorem paddedScriptReturnsPadding : Obligations.PaddedScriptReturnsPadding := by
  intro s M hs hq hcap
  have hlines : s.agenda = scriptTurns [.wrmsg 0 M, .wrlen M.length, .cmd 0x02#8, .wait] ++
      .host .readPlen :: (ScriptLine.turns (.rdp 0 (pad M).length) ++ []) := by
    rw [hs]; simp [scriptTurns, paddedScript, ScriptLine.turns]
  have hdone := run_until_done hlines hq hcap (fun _ => rfl) (engineRun_padding rfl rfl hcap (holds_commanded s M 1 _)) rfl rfl
  rw [statusWord_of_padded_done rfl rfl rfl] at hdone
  have hfit : (pad M).length ≤ s.par.padCap := pad_length M ▸ padLength_le_padCap hcap
  have hplen := run_trans hdone (run_cons (n := 0) (step_rdplen rfl rfl) rfl)
  have hread := run_trans hplen (run_rdp (bs := pad M) rfl rfl (pad_length M).symm hfit (holds_padded _ M))
  refine ⟨_, hread, rfl, ?_⟩
  rw [pad_length, List.append_assoc, List.append_assoc]
  rfl

end Sys2Proof.Machine

/-! PROOF. INIT (spec/40_constants_and_init.md R124) and the tables it and the rounds take (R121 to R123). -/

namespace Sys2Proof.Machine

/-! ## INIT -/

/-- A Message that does not fit is InputError, and `STRICT_LEN` asks nothing of one that fits (R124, 60_exceptions.md R265). -/
theorem execInit_eq (s : State) : execInit s =
    if s.msgLen > s.par.msgCap then .next (s.raise .inputError)
    else .next { s with
      L := s.msgLen
      H := ivTable
      plen := 0
      j := 0
      phase := if s.msgLen > 0 then Phase.padCopy else Phase.padMark } := rfl

/-- Settles O9: the two branches of INIT. -/
theorem initChecksLengthThenLoads : Obligations.InitChecksLengthThenLoads := by
  intro s
  change (_ → execInit s = _) ∧ (_ → execInit s = _)
  rw [execInit_eq]
  refine ⟨fun hbig => by rw [if_pos hbig]; rfl, fun hfits => ?_⟩
  rw [if_neg (by omega)]
  by_cases hempty : s.msgLen = 0
  · simp [hempty, ivTable]
  · simp [hempty, Nat.pos_of_ne_zero hempty, ivTable]

/-! ## The tables -/

/-- The eighty primes of the tables, in order (R123). -/
def tablePrimes : List Nat :=
  [2, 3, 5, 7, 11, 13, 17, 19, 23, 29, 31, 37, 41, 43, 47, 53, 59, 61, 67, 71,
   73, 79, 83, 89, 97, 101, 103, 107, 109, 113, 127, 131, 137, 139, 149, 151, 157, 163, 167, 173,
   179, 181, 191, 193, 197, 199, 211, 223, 227, 229, 233, 239, 241, 251, 257, 263, 269, 271, 277, 281,
   283, 293, 307, 311, 313, 317, 331, 337, 347, 349, 353, 359, 367, 373, 379, 383, 389, 397, 401, 409]

/-- Below 441 = 21² a composite number has a divisor from 2 to 20. -/
theorem prime_iff_trialDivision {q : Nat} (h : q < 441) :
    Nat.Prime q ↔ 2 ≤ q ∧ ∀ m ∈ List.range' 2 19, m * m ≤ q → ¬ m ∣ q := by
  rw [Nat.prime_def_le_sqrt]
  refine and_congr_right fun _ => ⟨fun hq m hm hsq => ?_, fun hq m h2 hsqrt => ?_⟩
  · exact hq m (List.mem_range'_1.mp hm).1 (Nat.le_sqrt.mpr hsq)
  · have hsq := Nat.le_sqrt.mp hsqrt
    have h20 : m < 21 := by nlinarith
    exact hq m (List.mem_range'_1.mpr ⟨h2, h20⟩) hsq

/-- The primes below 410 are those of the tables, by trial division. -/
theorem filter_prime_eq_tablePrimes : ((List.range 410).filter fun q => decide (Nat.Prime q)) = tablePrimes := by
  have htrial : ∀ q ∈ List.range 410, decide (Nat.Prime q) =
      decide (2 ≤ q ∧ ∀ m ∈ List.range' 2 19, m * m ≤ q → ¬ m ∣ q) := fun q hq =>
    decide_eq_decide.mpr (prime_iff_trialDivision ((List.mem_range.mp hq).trans (by decide)))
  rw [List.filter_congr htrial]
  decide +kernel

/-- The entry `x` is the first 64 bits of the fractional part of the root of degree `e` of `q`: for an integer part `c`,
`c·2^64 + x` is the floor of the root scaled by 2^64 (R121, R122). No root of the tables has an integer part past 7. -/
abbrev IsRootFraction (e q : Nat) (x : Word) : Prop :=
  ∃ c < 8, (c * 2 ^ 64 + x.toNat) ^ e ≤ q * 2 ^ (64 * e) ∧ q * 2 ^ (64 * e) < (c * 2 ^ 64 + x.toNat + 1) ^ e

theorem ivTable_squareRoots : List.Forall₂ (IsRootFraction 2) (tablePrimes.take 8) ivTable.words := by decide

theorem kTable_cubeRoots : List.Forall₂ (IsRootFraction 3) tablePrimes kTable := by decide +kernel

/-- Lists related entry by entry have related entries at each index. -/
theorem getElem?_of_forall₂ {α β : Type} {R : α → β → Prop} {as : List α} {bs : List β} (h : List.Forall₂ R as bs) {n : Nat}
    (hn : n < bs.length) : ∃ a b, as[n]? = some a ∧ bs[n]? = some b ∧ R a b :=
  have ha := h.length_eq.symm ▸ hn
  ⟨as[n], bs[n], List.getElem?_eq_getElem ha, List.getElem?_eq_getElem hn, h.get ha hn⟩

/-- Settles O41: the tables entry by entry, on the primes found by trial division. -/
theorem tablesAreRootFractions : Obligations.TablesAreRootFractions := by
  unfold Obligations.TablesAreRootFractions
  rw [filter_prime_eq_tablePrimes]
  refine ⟨kTable_length, rfl, fun n hn => ?_, fun n hn => ?_⟩
  · obtain ⟨q, x, hq, hx, c, -, hroot⟩ := getElem?_of_forall₂ ivTable_squareRoots hn
    rw [List.getElem?_take_of_lt hn] at hq
    exact ⟨q, c, x, hq, hx, hroot⟩
  · obtain ⟨q, x, hq, hx, c, -, hroot⟩ := getElem?_of_forall₂ kTable_cubeRoots (kTable_length.symm ▸ hn)
    exact ⟨q, c, x, hq, hx, hroot⟩

end Sys2Proof.Machine

/-! PROOF. A DIGEST as a run of the machine, and that it depends on the Message alone (spec/40_constants_and_init.md R125,
45_host_commands.md R240, 70_reset_and_hazards.md R301). -/

namespace Sys2Proof.Machine

section
variable {s : State}

/-- The host's write of `DIGEST` in a quiescent phase, and the engine's run from INIT to DONE (R230, R236). -/
theorem run_digest {M : List Byte} (hs : s.agenda = [.host (.writeCmd 0x01#8)]) (hq : isQuiescent s.phase = true)
    (hlen : s.msgLen = M.length) (hcap : M.length ≤ s.par.msgCap) (hmsg : s.holds .msg 0 M) :
    ∃ u, run (1 + digestSteps M.length) s = .next u ∧ u.holds .dig 0 (digest M) ∧
      u = { (State.start { s with agenda := [] } 0).padded M with
        v := u.v, H := u.H, W := u.W, i := u.i, t := u.t, dig := u.dig, phase := Phase.done } := by
  obtain ⟨u, hrun, hdig, hu⟩ := engineRun_digest (s := State.start { s with agenda := [] } 0) rfl rfl hlen hcap hmsg
  have haccept := run_cons (n := 0) (step_cmd hs hq fun _ => rfl) rfl
  exact ⟨u, run_trans haccept (hrun.run_eq (.inl rfl)), hdig, hu⟩

/-- The bytes that stand below a written length are a Message the memory holds. -/
theorem exists_holds_of_written {sp : Space} {n : Nat} (h : s.written sp n) :
    ∃ M : List Byte, M.length = n ∧ s.holds sp 0 M := by
  refine ⟨(List.range n).map fun a => (s.peek sp a).getD 0, by simp, fun a ha => ?_⟩
  rw [List.length_map, List.length_range] at ha
  obtain ⟨b, hb⟩ := Option.isSome_iff_exists.mp (h a ha)
  simp [ha, hb]

/-- Whether a space holds bytes from address 0 on depends on its cells below their length. -/
theorem holds_congr {u : State} {sp : Space} {bs : List Byte} (h : ∀ a, a < bs.length → s.peek sp a = u.peek sp a)
    (hs : s.holds sp 0 bs) : u.holds sp 0 bs := fun a ha => by
  have hbyte := hs a ha
  rw [Nat.zero_add] at hbyte ⊢
  rw [← h a ha, hbyte]

end

/-- Settles O55: both runs end with the digest of the Message that both memories hold. -/
theorem digestIsStateless : Obligations.DigestIsStateless := by
  intro s u hs hu hsq huq hlen hscap hucap hwritten hsame
  obtain ⟨M, hM, hsM⟩ := exists_holds_of_written hwritten
  have huM : u.holds .msg 0 M := holds_congr (by rwa [hM]) hsM
  obtain ⟨s', hsrun, hsdig, hs'⟩ := run_digest hs hsq hM.symm (by omega) hsM
  obtain ⟨u', hurun, hudig, hu'⟩ := run_digest hu huq (by omega) (by omega) huM
  rw [← hlen, ← hM]
  refine ⟨s', u', hsrun, hurun, congrArg State.phase hs', congrArg State.phase hu', fun a ha => ?_⟩
  have ha : a < (digest M).length := ha.trans_eq (hexdigest_length _).symm
  have hsbyte := hsdig a ha
  have hubyte := hudig a ha
  rw [Nat.zero_add] at hsbyte hubyte
  rw [hsbyte, hubyte, List.getElem?_eq_getElem ha]
  exact ⟨rfl, rfl⟩

end Sys2Proof.Machine

/-! PROOF. The padding in closed form (spec/41_padding.md R140 to R143, R146): how many zero bytes, how many blocks, and what each byte
is. -/

namespace Sys2Proof.Machine

/-! ## The number of zero bytes and of blocks -/

section
variable {L : Nat}

/-- Where marker and length field still fit in the block the Message ends in, the zeros fill that block (R142). -/
theorem padZeros_of_le (h : L % 128 ≤ 111) : padZeros L = 111 - L % 128 := by
  unfold padZeros
  omega

/-- Where they do not fit, the zeros fill that block and the one after it up to its length field (R142). -/
theorem padZeros_of_ge (h : 112 ≤ L % 128) : padZeros L = 239 - L % 128 := by
  unfold padZeros
  omega

theorem padZeros_eq_zero_iff : padZeros L = 0 ↔ L % 128 = 111 := by
  obtain h | h := Nat.lt_or_ge 111 (L % 128)
  · rw [padZeros_of_ge h]; omega
  · rw [padZeros_of_le h]; omega

theorem padZeros_int (L : Nat) : (padZeros L : Int) = (111 - (L : Int)) % 128 := by
  obtain h | h := Nat.lt_or_ge 111 (L % 128)
  · rw [padZeros_of_ge h]; omega
  · rw [padZeros_of_le h]; omega

theorem padLength_eq (L : Nat) : padLength L = L + 17 + padZeros L := by
  unfold padLength
  omega

/-- The number of blocks is `ceil((L + 17) / 128)` (R143). -/
theorem padLength_eq_mul_ceil (L : Nat) : padLength L = 128 * ((L + 17 + 127) / 128) := by
  rw [padLength_eq]
  obtain h | h := Nat.lt_or_ge 111 (L % 128)
  · rw [padZeros_of_ge h]; omega
  · rw [padZeros_of_le h]; omega

end

/-- Settles O42: `k` by the residue of `L`; the residue `(111 - v) mod 128` gives the value `v`. -/
theorem zeroCountForms : Obligations.ZeroCountForms := by
  refine ⟨fun L => ⟨padZeros_int L, padZeros_of_le, padZeros_of_ge, padZeros_eq_zero_iff.mpr, fun h => ?_, fun h => ?_, fun h => ?_⟩,
    fun v hv => ⟨111 + 128 - v, ?_⟩⟩
  · rw [padZeros_of_le (by omega), h]
  · rw [padZeros_of_ge h.ge, h]
  · rw [padZeros_of_ge (by omega), h]
  · have hint := padZeros_int (111 + 128 - v)
    omega

/-- Settles O43: the number of blocks is `ceil((L + 17) / 128)`, and its other forms are that quotient's. -/
theorem paddedLengthIsWholeBlocks : Obligations.PaddedLengthIsWholeBlocks := by
  intro M
  have hlen := padLength_eq M.length
  have hceil := padLength_eq_mul_ceil M.length
  rw [pad_length]
  refine ⟨(M.length + 17 + 127) / 128, hlen, hceil, ?pos, ?firstForm, ?secondForm, rfl, padLength_mod M.length, ?lower, ?noZeros,
    ?fieldStart, ?residue⟩ <;> omega

/-! ## The bytes of the length field -/

/-- Byte `n` of a word, the most significant first (R10). -/
theorem bytesBe64_getElem? (x : Word) {n : Nat} (h : n < 8) :
    ∃ b, (bytesBe64 x)[n]? = some b ∧ b.toNat = x.toNat / 2 ^ (8 * (7 - n)) % 256 := by
  refine ⟨x.extractLsb' (56 - 8 * n) 8, by simp [bytesBe64, h], ?_⟩
  rw [BitVec.extractLsb'_toNat, Nat.shiftRight_eq_div_pow, show 56 - 8 * n = 8 * (7 - n) by omega]

/-- The high half of the length field is zero (R146). -/
theorem lengthField_getElem?_high (L : Nat) {n : Nat} (h : n < 8) : (lengthField L)[n]? = some 0#8 := by
  have hzero : bytesBe64 0 = List.replicate 8 0#8 := by decide
  rw [lengthField, List.getElem?_append_left (by simpa using h), hzero, List.getElem?_replicate_of_lt h]

/-- The low half is `(L · 8) mod 2^64`, the most significant byte first (R141, R146). -/
theorem lengthField_getElem?_low (L : Nat) {n : Nat} (h8 : 8 ≤ n) (h16 : n < 16) :
    ∃ b, (lengthField L)[n]? = some b ∧ b.toNat = L * 8 % 2 ^ 64 / 2 ^ (8 * (15 - n)) % 256 := by
  obtain ⟨b, hb, hval⟩ := bytesBe64_getElem? (lengthLow L) (n := n - 8) (by omega)
  refine ⟨b, ?_, ?_⟩
  · rwa [lengthField, List.getElem?_append_right (by simpa using h8), bytesBe64_length]
  · rwa [lengthLow, BitVec.toNat_ofNat, show 7 - (n - 8) = 15 - n by omega] at hval

/-- A byte of the length field, whichever half it stands in (R141, R146). -/
theorem lengthField_getElem? (L : Nat) {n : Nat} (h : n ≤ 15) :
    ∃ b, (lengthField L)[n]? = some b ∧ (n < 8 → b = 0) ∧
      (8 ≤ n → b.toNat = L * 8 % 2 ^ 64 / 2 ^ (8 * (15 - n)) % 256) := by
  obtain hhigh | hlow := Nat.lt_or_ge n 8
  · exact ⟨0#8, lengthField_getElem?_high L hhigh, fun _ => rfl, by omega⟩
  · obtain ⟨b, hb, hval⟩ := lengthField_getElem?_low L hlow (by omega)
    exact ⟨b, hb, by omega, fun _ => hval⟩

/-! ## The bytes of the padding, part by part (R140) -/

section
variable {M : List Byte} {n : Nat}

theorem pad_getElem?_message (h : n < M.length) : (pad M)[n]? = M[n]? := by
  rw [pad, List.append_assoc, List.append_assoc, List.getElem?_append_left h]

theorem pad_getElem?_marker (M : List Byte) : (pad M)[M.length]? = some 0x80#8 := by
  simp [pad]

theorem pad_getElem?_zero (hM : M.length < n) (h : n < M.length + 1 + padZeros M.length) : (pad M)[n]? = some 0#8 := by
  rw [pad, List.getElem?_append_left (by simp; omega), List.getElem?_append_right (by simp; omega)]
  exact List.getElem?_replicate_of_lt (by simp; omega)

theorem pad_getElem?_lengthField (M : List Byte) (n : Nat) :
    (pad M)[M.length + 1 + padZeros M.length + n]? = (lengthField M.length)[n]? := by
  have hhead : (M ++ [0x80#8] ++ List.replicate (padZeros M.length) 0x00#8).length = M.length + 1 + padZeros M.length := by
    simp only [List.length_append, List.length_singleton, List.length_replicate]
  rw [pad, List.getElem?_append_right (by omega), hhead, Nat.add_sub_cancel_left]

/-- The zeros and the zero half of the length field stand together between the marker and the last eight bytes. -/
theorem pad_getElem?_zero_run (hM : M.length < n) (h : n + 8 < (pad M).length) : (pad M)[n]? = some 0#8 := by
  rw [pad_length, padLength_eq] at h
  obtain hn | hn := Nat.lt_or_ge n (M.length + 1 + padZeros M.length)
  · exact pad_getElem?_zero hM hn
  · obtain ⟨j, rfl⟩ := Nat.exists_eq_add_of_le hn
    rw [pad_getElem?_lengthField, lengthField_getElem?_high _ (by omega)]

/-- The last eight bytes are `(L · 8) mod 2^64`, big-endian. -/
theorem pad_getElem?_length (hn : n < (pad M).length) (h : (pad M).length ≤ n + 8) :
    ∃ b, (pad M)[n]? = some b ∧ b.toNat = M.length * 8 % 2 ^ 64 / 2 ^ (8 * ((pad M).length - 1 - n)) % 256 := by
  rw [pad_length, padLength_eq] at *
  obtain ⟨j, rfl⟩ := Nat.exists_eq_add_of_le (show M.length + 1 + padZeros M.length ≤ n by omega)
  obtain ⟨b, hb, hval⟩ := lengthField_getElem?_low M.length (n := j) (by omega) (by omega)
  refine ⟨b, by rwa [pad_getElem?_lengthField], ?_⟩
  rwa [show M.length + 17 + padZeros M.length - 1 - (M.length + 1 + padZeros M.length + j) = 15 - j by omega]

end

/-- Settles O44: which part of the padding an offset lies in, and its byte there. -/
theorem paddedMessageLayout : Obligations.PaddedMessageLayout := by
  intro M
  have hlen := pad_length M
  have heq := padLength_eq M.length
  have hmod := padLength_mod M.length
  refine ⟨by omega, by omega, by omega, by omega, fun n hn => ?_⟩
  obtain hlt | rfl | hgt := Nat.lt_trichotomy n M.length
  · exact ⟨M[n], by rw [pad_getElem?_message hlt, List.getElem?_eq_getElem hlt],
      fun _ => List.getElem?_eq_getElem hlt, by omega, by omega, by omega⟩
  · exact ⟨0x80#8, pad_getElem?_marker M, by omega, fun _ => rfl, by omega, by omega⟩
  · obtain hz | hlow := Nat.lt_or_ge (n + 8) (pad M).length
    · exact ⟨0#8, pad_getElem?_zero_run hgt hz, by omega, by omega, fun _ _ => rfl, by omega⟩
    · obtain ⟨b, hb, hval⟩ := pad_getElem?_length hn hlow
      exact ⟨b, hb, by omega, by omega, by omega, fun _ => hval⟩

end Sys2Proof.Machine

/-! PROOF. The padding micro-operations (spec/41_padding.md R150 to R153) and the stage they make up (R154). -/

namespace Sys2Proof.Machine

/-- Settles O10: the two cases are whether the byte copied is the last of the Message. -/
theorem padCopyCopiesOneByte : Obligations.PadCopyCopiesOneByte := by
  intro s b ha hb
  have hexec : exec .padCopy s = _ := execPadCopy_eq ha hb
  have hsame := Memory.read_write_same s.p s.j b
  have hother := fun a => Memory.read_write_other s.p (a := s.j) (a' := a) b
  by_cases hlast : s.j + 1 = s.L
  · rw [if_pos hlast] at hexec
    exact ⟨_, hexec, hsame, hother, fun _ => ⟨rfl, rfl⟩, fun hne => absurd hlast hne, rfl⟩
  · rw [if_neg hlast] at hexec
    exact ⟨_, hexec, hsame, hother, fun heq => absurd heq hlast, fun _ => ⟨rfl, rfl⟩, rfl⟩

/-- Settles O11: no zero byte is needed exactly for the residue 111 (R142). -/
theorem padMarkWritesTheMarker : Obligations.PadMarkWritesTheMarker := by
  intro s hL
  have hexec : exec .padMark s = _ := execPadMark_eq (hL.trans_lt (msgCap_lt_padCap s.par))
  refine ⟨_, hexec, Memory.read_write_same s.p s.L _, fun a => Memory.read_write_other s.p _, padZeros_toNat s.L, rfl,
    fun h => if_neg ?_, fun h => if_pos ?_, rfl⟩
  · rw [padZeros_eq_zero_iff.mpr h]; exact Nat.lt_irrefl 0
  · exact Nat.pos_of_ne_zero (mt padZeros_eq_zero_iff.mp h)

/-- Settles O12: the two cases are whether the byte written is the last of the zeros. -/
theorem padZeroWritesOneZero : Obligations.PadZeroWritesOneZero := by
  intro s ha
  have hexec : exec .padZero s = _ := execPadZero_eq ha
  have hsame := Memory.read_write_same s.p s.zeroAddr 0#8
  have hother := fun a => Memory.read_write_other s.p (a := s.zeroAddr) (a' := a) 0#8
  by_cases hlast : s.j + 1 = s.k.toNat
  · rw [if_pos hlast] at hexec
    exact ⟨_, hexec, hsame, hother, fun _ => ⟨rfl, rfl⟩, fun hne => absurd hlast hne, rfl⟩
  · rw [if_neg hlast] at hexec
    exact ⟨_, hexec, hsame, hother, fun heq => absurd heq hlast, fun _ => ⟨rfl, rfl⟩, rfl⟩

/-- Settles O13: the two cases are whether the byte written is the last of the padding. -/
theorem padLenWritesTheLengthField : Obligations.PadLenWritesTheLengthField := by
  intro s hj ha
  obtain ⟨b, hb, hhigh, hlow⟩ := lengthField_getElem? s.L hj
  have hexec : exec .padLen s = _ := execPadLen_eq hb ha
  have hsame := Memory.read_write_same s.p s.lenAddr b
  have hother := fun a => Memory.read_write_other s.p (a := s.lenAddr) (a' := a) b
  by_cases hlast : s.j = 15
  · rw [if_pos hlast] at hexec
    exact ⟨_, b, hexec, hsame, hhigh, hlow, hother, fun _ => ⟨rfl, rfl, rfl, rfl, rfl, rfl⟩, fun hne => absurd hlast hne, rfl⟩
  · rw [if_neg hlast] at hexec
    exact ⟨_, b, hexec, hsame, hhigh, hlow, hother, fun heq => absurd heq hlast, fun _ => ⟨rfl, rfl, rfl, rfl, rfl, rfl⟩, rfl⟩

/-- Settles O49: the engine's run through the padding stage is a run of the machine. -/
theorem paddingStageComputesPad : Obligations.PaddingStageComputesPad := by
  intro s M hagenda hphase hlen hcap hmsg
  have hrun := (engineRun_padding hphase hlen hcap hmsg).run_eq (.inl hagenda)
  have hplen : padLength s.msgLen = (pad M).length := by rw [hlen, pad_length]
  rw [paddedSteps, ← pad_length, Nat.add_comm] at hrun
  exact ⟨s.padded M, hrun, holds_padded s M, hplen, congrArg (· / 128) hplen, rfl, rfl, rfl, rfl, rfl, rfl, rfl, rfl⟩

end Sys2Proof.Machine

/-! PROOF. The schedule's functions on words (spec/42_schedule.md R170 to R173, 43_compression.md R190, R191), bit by bit, and the
schedule of a block (42_schedule.md R174). -/

namespace Sys2Proof.Machine

/-! ## Rotation and shift (R170, R171) -/

section
variable (x : Word) {n b : Nat}

theorem shr_toNat (n : Nat) : (shr x n).toNat = x.toNat / 2 ^ n := by
  rw [shr, BitVec.toNat_ushiftRight, Nat.shiftRight_eq_div_pow]

/-- The low `n` bits move above the others: the two parts have no bit in common, so their union is their sum. -/
theorem rotr_toNat (hn : n < 64) : (rotr x n).toNat = x.toNat / 2 ^ n + x.toNat % 2 ^ n * 2 ^ (64 - n) := by
  have hpow : 2 ^ 64 = 2 ^ n * 2 ^ (64 - n) := by rw [← Nat.pow_add, Nat.add_sub_cancel' hn.le]
  have hlow : x.toNat <<< (64 - n) % 2 ^ 64 = (x.toNat % 2 ^ n) <<< (64 - n) := by
    rw [Nat.shiftLeft_eq, Nat.shiftLeft_eq, hpow, Nat.mul_mod_mul_right]
  have hhigh : x.toNat / 2 ^ n < 2 ^ (64 - n) := Nat.div_lt_of_lt_mul (hpow ▸ x.isLt)
  calc (rotr x n).toNat = x.toNat / 2 ^ n ||| (x.toNat % 2 ^ n) <<< (64 - n) := by
        rw [rotr, BitVec.toNat_rotateRight, Nat.mod_eq_of_lt hn, hlow, Nat.shiftRight_eq_div_pow]
    _ = x.toNat / 2 ^ n + x.toNat % 2 ^ n * 2 ^ (64 - n) := by
        rw [Nat.or_comm, ← Nat.shiftLeft_add_eq_or_of_lt hhigh, Nat.shiftLeft_eq, Nat.add_comm]

/-- A bit of a shift comes from `n` places above it, if there is such a bit. -/
theorem shr_getLsbD (n b : Nat) : (shr x n).getLsbD b = (decide (b + n ≤ 63) && x.getLsbD (b + n)) := by
  rw [shr, BitVec.getLsbD_ushiftRight, Nat.add_comm]
  by_cases h : b + n ≤ 63
  · simp [h]
  · simp [h, BitVec.getLsbD_of_ge x (b + n) (by omega)]

/-- A bit of a rotation comes from `n` places above it, and past the top from the bottom. -/
theorem rotr_getLsbD (hn : n < 64) (hb : b < 64) : (rotr x n).getLsbD b = x.getLsbD ((b + n) % 64) := by
  rw [rotr, BitVec.getLsbD_rotateRight, Nat.mod_eq_of_lt hn]
  obtain hin | hpast := Nat.lt_or_ge b (64 - n)
  · rw [decide_eq_true hin, cond_true, Nat.mod_eq_of_lt (by omega), Nat.add_comm]
  · rw [decide_eq_false (by omega), cond_false, decide_eq_true hb, Bool.true_and, show (b + n) % 64 = b - (64 - n) by omega]

end

/-- Settles O37: by value and by bits. -/
theorem rotateAndShift : Obligations.RotateAndShift := by
  intro x n _ hn
  refine ⟨rotr_toNat x hn, fun b hb => rotr_getLsbD x hn hb, shr_toNat x n, fun b _ => ?_⟩
  rw [shr_getLsbD]
  split <;> simp [*]

/-- Settles O38: each bit through those of the rotations and the shift. -/
theorem mixingFunctionsBitByBit : Obligations.MixingFunctionsBitByBit := by
  refine ⟨fun x b hb => ?_, by decide, by decide, by decide, by decide⟩
  have hrotr {n : Nat} (hn : n < 64) := rotr_getLsbD x hn hb
  simp [sigma0, sigma1, bigSigma0, bigSigma1, hrotr, shr_getLsbD]

/-! ## The schedule of a block (R174) -/

/-- The recurrence by value: the sum of the four taps mod 2^64. -/
theorem expandWord_toNat (w2 w7 w15 w16 : Word) : (expandWord w2 w7 w15 w16).toNat =
    ((sigma1 w2).toNat + w7.toNat + (sigma0 w15).toNat + w16.toNat) % 2 ^ 64 := by
  simp only [expandWord, BitVec.toNat_add, Nat.mod_add_mod]

section
variable (B : List Byte) {m n : Nat}

/-- Each word is made from the words before it, and the words after it leave it as it is. -/
theorem schedWords_getElem? (h : m < n) : (schedWords B n)[m]? = some (nextScheduleWord B (schedWords B m) m) := by
  induction n with
  | zero => omega
  | succ n ih =>
    rw [schedWords]
    obtain hlt | rfl := Nat.lt_succ_iff_lt_or_eq.mp h
    · rw [List.getElem?_append_left (by simpa using hlt), ih hlt]
    · rw [List.getElem?_append_right (by simp)]; simp

/-- An earlier word, as the recurrence takes it, is a word of the whole schedule. -/
theorem sched_getElem?_earlier (hm : m < n) (hn : n ≤ 80) : (sched B)[m]? = some ((schedWords B n).getD m 0) := by
  rw [List.getD_eq_getElem?_getD, schedWords_getElem? B hm, sched, schedWords_getElem? B (hm.trans_le hn), Option.getD_some]

end

/-- Settles O47: the sixteen words of the block, and the recurrence with its four taps. -/
theorem scheduleRecurrence : Obligations.ScheduleRecurrence := by
  intro B _
  refine ⟨sched_length B, fun t ht => ?_, fun t h16 ht => ?_⟩
  · rw [sched, schedWords_getElem? B (by omega), nextScheduleWord, if_pos ht]
  · have hword := schedWords_getElem? B ht
    rw [nextScheduleWord, if_neg (by omega)] at hword
    have htap {d : Nat} (hd : 0 < d) := sched_getElem?_earlier B (m := t - d) (n := t) (by omega) ht.le
    exact ⟨_, _, _, _, _, hword, htap (by omega), htap (by omega), htap (by omega), htap (by omega), expandWord_toNat _ _ _ _⟩

end Sys2Proof.Machine

/-! PROOF. The schedule micro-operations (spec/42_schedule.md R176, R177) and the stage they make up (R178). -/

namespace Sys2Proof.Machine

/-- Settles O50: the engine's run through the schedule stage is a run of the machine. -/
theorem scheduleStageComputesSched : Obligations.ScheduleStageComputesSched := by
  intro s B hagenda hphase ht hB hcap hblock
  obtain ⟨W, hrun, hW⟩ := engineRun_schedule hphase ht hB hcap hblock
  exact ⟨_, hrun.run_eq (.inl hagenda), hW, rfl, rfl⟩

/-- A word set in `W` stands there, and every other word stands as it did. -/
theorem getElem?_set_word (W : Vector Word 80) (w : Word) {n : Nat} (h : n < 80) :
    (W.set n w h)[n]? = some w ∧ ∀ m, m ≠ n → (W.set n w h)[m]? = W[m]? :=
  ⟨Vector.getElem?_set_self h, fun _ hm => Vector.getElem?_set_ne h hm.symm⟩

/-- Settles O15: the two cases are whether the word loaded is the last of the block. -/
theorem wloadLoadsOneWord : Obligations.WloadLoadsOneWord := by
  intro s b0 b1 b2 b3 b4 b5 b6 b7 ht ha hbytes
  have hexec : exec .wload s = _ := execWload_eq ht rfl ha hbytes
  have hvalue := be64_toNat_eight b0 b1 b2 b3 b4 b5 b6 b7
  obtain ⟨hsame, hother⟩ := getElem?_set_word s.W (be64 [b0, b1, b2, b3, b4, b5, b6, b7]) ht
  have hsucc := (toNat_succ_of_lt (t := s.t) (last := 80) ht).2
  by_cases hlast : s.t = 15
  · rw [if_pos hlast] at hexec
    exact ⟨_, _, hexec, hsame, hvalue, hother, fun _ => ⟨rfl, rfl⟩, fun hne => absurd hlast hne, rfl⟩
  · rw [if_neg hlast] at hexec
    exact ⟨_, _, hexec, hsame, hvalue, hother, fun heq => absurd heq hlast, fun _ => ⟨hsucc, rfl⟩, rfl⟩

/-- Settles O16: the two cases are whether the word computed is the last of the schedule. -/
theorem wexpExpandsOneWord : Obligations.WexpExpandsOneWord := by
  intro s w2 w7 w15 w16 h16 ht h2 h7 h15 hw16
  have ht80 : s.t.toNat < 80 := Nat.lt_succ_of_le ht
  have hexec : exec .wexp s = _ := execWexp_eq h16 ht80 h2 h7 h15 hw16
  have hvalue := expandWord_toNat w2 w7 w15 w16
  obtain ⟨hsame, hother⟩ := getElem?_set_word s.W (expandWord w2 w7 w15 w16) ht80
  have hsucc := (toNat_succ_of_lt (t := s.t) (last := 80) ht80).2
  by_cases hlast : s.t = 79
  · rw [if_pos hlast] at hexec
    exact ⟨_, _, hexec, hsame, hvalue, hother, fun _ => ⟨rfl, rfl⟩, fun hne => absurd hlast hne, rfl⟩
  · rw [if_neg hlast] at hexec
    exact ⟨_, _, hexec, hsame, hvalue, hother, fun heq => absurd heq hlast, fun _ => ⟨hsucc, rfl⟩, rfl⟩

end Sys2Proof.Machine

/-! PROOF. The compression function (spec/43_compression.md R192 to R200): Ch and Maj bit by bit, the three micro-operations of a block
after its schedule, and the block function they make up. -/

namespace Sys2Proof.Machine

/-! ## Ch and Maj (R192, R193) -/

section
variable (x y z : Word) {b : Nat}

/-- A bit of `e` chooses between those of `f` and `g`. -/
theorem ch_getLsbD (hb : b < 64) : (ch x y z).getLsbD b = if x.getLsbD b then y.getLsbD b else z.getLsbD b := by
  rw [ch, BitVec.getLsbD_xor, BitVec.getLsbD_and, BitVec.getLsbD_and, BitVec.getLsbD_not, decide_eq_true hb, Bool.true_and]
  cases x.getLsbD b <;> simp

/-- Two of three bits agree, and theirs is the majority. -/
theorem maj_getLsbD (b : Nat) : (maj x y z).getLsbD b =
    decide (2 ≤ (x.getLsbD b).toNat + (y.getLsbD b).toNat + (z.getLsbD b).toNat) := by
  simp only [maj, BitVec.getLsbD_xor, BitVec.getLsbD_and]
  generalize x.getLsbD b = p, y.getLsbD b = q, z.getLsbD b = r
  revert p q r
  decide

end

/-- Settles O39: the formulas are the definitions, the bits and the examples follow. -/
theorem chooseAndMajority : Obligations.ChooseAndMajority :=
  ⟨fun _ _ _ => ⟨rfl, rfl⟩, fun x y z b hb => ⟨ch_getLsbD x y z hb, maj_getLsbD x y z b⟩, by decide, by decide⟩

/-! ## The micro-operations LOADV, ROUND and FEED (R194 to R198) -/

/-- Settles O17: `a .. h` taken from `h0 .. h7` is `HashState.toWorking`. -/
theorem loadvCopiesTheAccumulator : Obligations.LoadvCopiesTheAccumulator := fun _ => rfl

theorem roundT1_toNat (v : Working) (kt wt : Word) : (roundT1 v kt wt).toNat =
    (v.h.toNat + (bigSigma1 v.e).toNat + (ch v.e v.f v.g).toNat + kt.toNat + wt.toNat) % 2 ^ 64 := by
  simp only [roundT1, BitVec.toNat_add, Nat.mod_add_mod]

theorem roundT2_toNat (v : Working) :
    (roundT2 v).toNat = ((bigSigma0 v.a).toNat + (maj v.a v.b v.c).toNat) % 2 ^ 64 :=
  BitVec.toNat_add _ _

/-- Settles O18: the two cases are whether the round is the last of the block. -/
theorem roundUpdatesTheWorkingRegisters : Obligations.RoundUpdatesTheWorkingRegisters := by
  intro s kt wt hk hw
  have hexec : exec .round s = _ := execRound_eq hk hw
  have hT1 := roundT1_toNat s.v kt wt
  have hT2 := roundT2_toNat s.v
  have ha : (roundFn s.v kt wt).a.toNat = _ := BitVec.toNat_add (roundT1 s.v kt wt) (roundT2 s.v)
  have he : (roundFn s.v kt wt).e.toNat = _ := BitVec.toNat_add s.v.d (roundT1 s.v kt wt)
  have ht : s.t.toNat < 80 := by simpa using (List.getElem?_eq_some_iff.mp hk).1
  have hsucc := (toNat_succ_of_lt (t := s.t) (last := 80) ht).2
  by_cases hlast : s.t = 79
  · rw [if_pos hlast] at hexec
    exact ⟨_, _, _, hexec, hT1, hT2, ha, rfl, rfl, rfl, he, rfl, rfl, rfl,
      fun _ => ⟨rfl, rfl⟩, fun hne => absurd hlast hne, rfl⟩
  · rw [if_neg hlast] at hexec
    exact ⟨_, _, _, hexec, hT1, hT2, ha, rfl, rfl, rfl, he, rfl, rfl, rfl,
      fun heq => absurd heq hlast, fun _ => ⟨hsucc, rfl⟩, rfl⟩

/-- FEED adds in both its cases; only where the sequencer goes on depends on whether blocks are left. -/
theorem execFeed_eq (s : State) : execFeed s = .next { s with
    H := feedForward s.H s.v
    i := if s.i + 1 < s.N then s.i + 1 else s.i
    t := if s.i + 1 < s.N then 0 else s.t
    phase := if s.i + 1 < s.N then Phase.wload else Phase.finalize } := by
  unfold execFeed
  split <;> rfl

/-- Settles O19: each word of the feed-forward is one sum. -/
theorem feedAddsTheWorkingRegisters : Obligations.FeedAddsTheWorkingRegisters := fun s =>
  ⟨_, execFeed_eq s,
    BitVec.toNat_add _ _, BitVec.toNat_add _ _, BitVec.toNat_add _ _, BitVec.toNat_add _ _,
    BitVec.toNat_add _ _, BitVec.toNat_add _ _, BitVec.toNat_add _ _, BitVec.toNat_add _ _,
    fun hmore => ⟨if_pos hmore, if_pos hmore, if_pos hmore⟩,
    fun hlast => ⟨if_neg hlast.not_gt, if_neg hlast.not_gt, if_neg hlast.not_gt⟩, rfl⟩

/-! ## The block function and the chain (R199, R200) -/

/-- A fold over the first `n + 1` elements is one more application after the fold over the first `n`. -/
theorem foldl_take_succ {α β : Type} (f : β → α → β) (b : β) {l : List α} {n : Nat} {x : α} (h : l[n]? = some x) :
    (l.take (n + 1)).foldl f b = f ((l.take n).foldl f b) x := by
  rw [List.take_add_one, h, List.foldl_append]
  rfl

/-- The working registers of a block before round `t` (R199). -/
def roundsBefore (Hin : HashState) (B : List Byte) (t : Nat) : Working :=
  rounds Hin.toWorking ((kTable.zip (sched B)).take t)

/-- Round `t` takes `K[t]` and word `t` of the block's schedule. -/
theorem roundsBefore_succ (Hin : HashState) {B : List Byte} {t : Nat} {kt wt : Word} (hk : kTable[t]? = some kt)
    (hw : (sched B)[t]? = some wt) : roundsBefore Hin B (t + 1) = roundFn (roundsBefore Hin B t) kt wt := by
  have hkw : (kTable.zip (sched B))[t]? = some (kt, wt) := List.getElem?_zip_eq_some.mpr ⟨hk, hw⟩
  rw [roundsBefore, rounds, foldl_take_succ _ _ hkw, roundsBefore, rounds]

/-- There are eighty rounds. -/
theorem compress_eq (Hin : HashState) (B : List Byte) : compress Hin B = feedForward Hin (roundsBefore Hin B 80) := by
  rw [compress, roundsBefore, List.take_of_length_le (by simp)]

/-- The hash state `H_i` of the chain, before block `i` of the padded Message (R200). -/
def chainBefore (P : List Byte) (i : Nat) : HashState := ((blocks P).take i).foldl compress ivTable

theorem chainBefore_succ {P : List Byte} {i : Nat} (h : i < P.length / 128) :
    chainBefore P (i + 1) = compress (chainBefore P i) (block P i) :=
  foldl_take_succ compress ivTable (by simp [blocks, h])

theorem chain_eq (P : List Byte) : chain P = chainBefore P (P.length / 128) := by
  rw [chain, chainBefore, List.take_of_length_le (by simp [blocks])]

/-- Settles O48: the working registers before each round, and the hash states before each block. -/
theorem compressionAndChain : Obligations.CompressionAndChain := by
  refine ⟨fun Hin B => ⟨roundsBefore Hin B, rfl, fun t ht => ?_, compress_eq Hin B⟩,
    fun P => ⟨chainBefore P, rfl, fun _ => chainBefore_succ, chain_eq P⟩⟩
  have hk : kTable[t]? = some _ := List.getElem?_eq_getElem (by simpa using ht)
  have hw : (sched B)[t]? = some _ := List.getElem?_eq_getElem (by simpa using ht)
  exact ⟨_, _, hk, hw, roundsBefore_succ Hin hk hw⟩

/-- Settles O51: the engine's run through a block is a run of the machine; the two cases are whether blocks are left. -/
theorem blockStepsComputeCompress : Obligations.BlockStepsComputeCompress := by
  intro s B hagenda hphase ht hB hcap hblock
  obtain ⟨v, W, hrun⟩ := engineRun_block hphase ht hB hcap hblock
  have hsteps := hrun.run_eq (.inl hagenda)
  obtain hmore | hlast := Nat.lt_or_ge (s.i + 1) s.N
  · rw [if_pos hmore] at hsteps
    exact ⟨_, hsteps, rfl, fun _ => ⟨rfl, rfl, rfl⟩, fun h => absurd hmore h.not_gt, rfl⟩
  · rw [if_neg hlast.not_gt] at hsteps
    exact ⟨_, hsteps, rfl, fun h => absurd h hlast.not_gt, fun _ => ⟨rfl, rfl⟩, rfl⟩

end Sys2Proof.Machine

/-! PROOF. The digest assembler (spec/44_digest_assembler.md R220 to R222): a digit's character by its code, the digits of a word, the
words of the hash state, and what FINALIZE leaves in `DIG`. -/

namespace Sys2Proof.Machine

/-! ## A digit and its character (R221) -/

/-- No sum wraps: a digit is below 16, and in the second case at least 10. -/
theorem hexchar_toNat (x : BitVec 4) : (hexchar x).toNat = if x.toNat ≤ 9 then 0x30 + x.toNat else 0x61 + (x.toNat - 10) := by
  have hx := x.isLt
  unfold hexchar
  split
  all_goals
    simp only [BitVec.toNat_add, BitVec.toNat_sub, BitVec.toNat_setWidth, BitVec.toNat_ofNat]
    omega

/-- The character as the rule's number in eight bits. -/
theorem hexchar_eq_ofNat (x : BitVec 4) :
    hexchar x = if x.toNat ≤ 9 then BitVec.ofNat 8 (0x30 + x.toNat) else BitVec.ofNat 8 (0x61 + (x.toNat - 10)) := by
  have hvalue := congrArg (BitVec.ofNat 8) (hexchar_toNat x)
  rwa [BitVec.ofNat_toNat, BitVec.setWidth_eq, apply_ite (BitVec.ofNat 8)] at hvalue

/-- The codes of the letters are above those of the decimal digits. -/
theorem hexchar_injective : Function.Injective hexchar := by
  intro x y h
  have hcode := congrArg BitVec.toNat h
  rw [hexchar_toNat, hexchar_toNat] at hcode
  apply BitVec.eq_of_toNat_eq
  split at hcode <;> split at hcode <;> omega

/-! ## The digits of a word (R220) -/

theorem hex16_getElem? (x : Word) {d : Nat} (h : d < 16) : (hex16 x)[d]? = some (hexchar (x.extractLsb' (60 - 4 * d) 4)) := by
  simp [hex16, h]

/-- Bit `b` of a word is bit `b % 4` of digit `15 - b / 4`. -/
theorem getLsbD_eq_digit (x : Word) {b : Nat} (h : b < 64) :
    x.getLsbD b = (x.extractLsb' (60 - 4 * (15 - b / 4)) 4).getLsbD (b % 4) := by
  rw [BitVec.getLsbD_extractLsb', decide_eq_true (Nat.mod_lt b (by decide)), Bool.true_and]
  congr 1
  omega

/-- Equal characters come from equal digits, and every bit of the word is in a digit. -/
theorem hex16_injective : Function.Injective hex16 := by
  intro x y h
  have hdigit {d : Nat} (hd : d < 16) : x.extractLsb' (60 - 4 * d) 4 = y.extractLsb' (60 - 4 * d) 4 :=
    hexchar_injective (List.map_inj_left.mp h d (List.mem_range.mpr hd))
  refine BitVec.eq_of_getLsbD_eq fun b hb => ?_
  rw [getLsbD_eq_digit x hb, getLsbD_eq_digit y hb, hdigit (by omega)]

/-! ## The digits of the hash state (R220) -/

theorem HashState.words_injective : Function.Injective HashState.words := by
  rintro ⟨⟩ ⟨⟩ h
  simpa [HashState.words] using h

/-- Place `16·n + d` of the words' digits is digit `d` of word `n`: each word before it has sixteen. -/
theorem flatMap_hex16_getElem? {xs : List Word} {n d : Nat} {x : Word} (hd : d < 16) (hx : xs[n]? = some x) :
    (xs.flatMap hex16)[16 * n + d]? = some (hexchar (x.extractLsb' (60 - 4 * d) 4)) := by
  induction xs generalizing n with
  | nil => simp at hx
  | cons y ys ih =>
    rw [List.flatMap_cons]
    cases n with
    | zero =>
      obtain rfl : y = x := by simpa using hx
      rw [List.getElem?_append_left (by rw [hex16_length]; omega), Nat.mul_zero, Nat.zero_add, hex16_getElem? y hd]
    | succ n =>
      have hplace : 16 * (n + 1) + d - (hex16 y).length = 16 * n + d := by rw [hex16_length]; omega
      rw [List.getElem?_append_right (by rw [hex16_length]; omega), hplace, ih (by simpa using hx)]

theorem hexdigest_getElem? {H : HashState} {n d : Nat} {x : Word} (hd : d < 16) (hx : H.words[n]? = some x) :
    (hexdigest H)[16 * n + d]? = some (hexchar (x.extractLsb' (60 - 4 * d) 4)) :=
  flatMap_hex16_getElem? hd hx

/-- The eight parts have sixteen characters each, so a digest falls into its parts in one way. -/
theorem hexdigest_injective : Function.Injective hexdigest := by
  intro H H' h
  have hlengths : (H.words.map hex16).map List.length = (H'.words.map hex16).map List.length := by simp [HashState.words]
  have hparts : H.words.map hex16 = H'.words.map hex16 :=
    List.eq_iff_flatten_eq.mpr ⟨by simpa only [hexdigest, List.flatMap_def] using h, hlengths⟩
  exact HashState.words_injective (List.map_injective_iff.mpr hex16_injective hparts)

/-- Settles O46: the length, the digits, their codes, and that the digits determine the state. -/
theorem hexDigestDigits : Obligations.HexDigestDigits :=
  ⟨fun H => ⟨hexdigest_length H, fun _ _ _ hd hx => hexdigest_getElem? hd hx⟩, hexchar_toNat,
    fun _ _ h => hexdigest_injective h⟩

/-! ## FINALIZE (R222) -/

/-- Settles O20: `DIG` holds the digest from address 0 on, and a character that the digest has stands at its place. -/
theorem finalizeWritesTheDigest : Obligations.FinalizeWritesTheDigest := by
  intro s
  obtain ⟨m, hnext, hholds, habove, -, -⟩ := execFinalize_eq s
  refine ⟨{ s with dig := m, phase := Phase.done }, hnext, rfl, fun n d x hd hx => ?_, habove, rfl⟩
  have hchar := hexdigest_getElem? hd hx
  obtain ⟨hlt, -⟩ := List.getElem?_eq_some_iff.mp hchar
  rw [← hexchar_eq_ofNat, ← hchar, ← hholds _ hlt, Nat.zero_add]
  rfl

end Sys2Proof.Machine

/-! PROOF. The engine's control (spec/45_host_commands.md R234, R238): the registers that decide its path, and how an instruction moves
them. What it does to them is a function of them alone. -/

namespace Sys2Proof.Machine

/-- The registers that decide the engine's path: those on which `State.sameControl` has two states agree. -/
@[ext] structure Control where
  par : Params
  phase : BitVec 4
  i : Nat
  t : BitVec 7
  j : Nat
  L : Nat
  k : BitVec 7
  N : Nat
  op : BitVec 1
  err : BitVec 3
  msgLen : Nat
  plen : Nat

/-- The control registers of a state. -/
def State.control (s : State) : Control where
  par := s.par
  phase := s.phase
  i := s.i
  t := s.t
  j := s.j
  L := s.L
  k := s.k
  N := s.N
  op := s.op
  err := s.err
  msgLen := s.msgLen
  plen := s.plen

theorem State.sameControl_iff {s u : State} : s.sameControl u ↔ s.control = u.control := by
  rw [Control.ext_iff]; rfl

/-- The control registers after an instruction: the conditions and the control writes of the transition table, row by row (R234), and
for a command those of its acceptance (R232, R233). -/
def Control.after (c : Control) : Instr → Control
  | .digest => if isBusy c.phase then c else { c with err := 0, op := 0, phase := Phase.init }
  | .padded => if isBusy c.phase then c else { c with err := 0, op := 1, phase := Phase.init }
  | .holdIdle | .holdDone | .holdError => c
  | .init =>
    if c.par.msgCap < c.msgLen then { c with phase := Phase.error, err := 1 }
    else { c with L := c.msgLen, plen := 0, j := 0, phase := if c.msgLen > 0 then Phase.padCopy else Phase.padMark }
  | .padCopy => if c.j + 1 = c.L then { c with phase := Phase.padMark } else { c with j := c.j + 1 }
  | .padMark =>
    { c with
      k := BitVec.ofNat 7 (padZeros c.L)
      j := 0
      phase := if padZeros c.L > 0 then Phase.padZero else Phase.padLen }
  | .padZero => if c.j + 1 = c.k.toNat then { c with j := 0, phase := Phase.padLen } else { c with j := c.j + 1 }
  | .padLen =>
    if c.j = 15 then
      { c with
        plen := c.L + 1 + c.k.toNat + 16
        N := (c.L + 1 + c.k.toNat + 16) / 128
        i := 0
        t := 0
        phase := if c.op = 1 then Phase.done else Phase.wload }
    else { c with j := c.j + 1 }
  | .wload => if c.t = 15 then { c with t := 16, phase := Phase.wexp } else { c with t := c.t + 1 }
  | .wexp => if c.t = 79 then { c with phase := Phase.loadv } else { c with t := c.t + 1 }
  | .loadv => { c with t := 0, phase := Phase.round }
  | .round => if c.t = 79 then { c with phase := Phase.feed } else { c with t := c.t + 1 }
  | .feed =>
    if c.i + 1 < c.N then { c with i := c.i + 1, t := 0, phase := Phase.wload } else { c with phase := Phase.finalize }
  | .finalize => { c with phase := Phase.done }

section
variable {s t : State}

/-- A command moves the control registers by the phase alone: it is ignored, or accepted. -/
theorem onCommand_control {op : BitVec 1} (h : onCommand s (·.start op) = .next t) :
    t.control =
      if isBusy s.phase then s.control else { s.control with err := 0, op := op, phase := Phase.init } := by
  obtain ⟨hbusy, rfl⟩ | ⟨hidle, -, rfl⟩ := onCommand_next h
  · rw [if_pos hbusy]
  · rw [hidle]; rfl

/-- No instruction's effect on the control registers asks for anything but the control registers, instruction by instruction. -/
theorem exec_control {i : Instr} (h : exec i s = .next t) : t.control = s.control.after i := by
  cases i with
  | digest | padded => exact onCommand_control h
  | holdIdle | holdDone | holdError => cases h; rfl
  | init =>
    obtain ⟨hbig, rfl⟩ | ⟨hfits, rfl⟩ := execInit_next h
    · exact (if_pos hbig).symm
    · exact (if_neg (Nat.not_lt.mpr hfits)).symm
  | padCopy =>
    obtain ⟨b, -, -, -, rfl⟩ := execPadCopy_next h
    exact apply_ite State.control _ _ _
  | padMark => obtain ⟨-, rfl⟩ := execPadMark_next h; rfl
  | padZero =>
    obtain ⟨-, rfl⟩ := execPadZero_next h
    exact apply_ite State.control _ _ _
  | padLen =>
    obtain ⟨b, -, -, rfl⟩ := execPadLen_next h
    exact apply_ite State.control _ _ _
  | wload =>
    obtain ⟨bs, -, -, -, rfl⟩ := execWload_next h
    exact apply_ite State.control _ _ _
  | wexp =>
    obtain ⟨-, w2, w7, w15, w16, -, -, -, -, -, rfl⟩ := execWexp_next h
    exact apply_ite State.control _ _ _
  | loadv => cases execLoadv_next h; rfl
  | round =>
    obtain ⟨kt, wt, -, -, rfl⟩ := execRound_next h
    exact apply_ite State.control _ _ _
  | feed =>
    cases execFeed_next h
    exact apply_ite State.control _ _ _
  | finalize =>
    obtain ⟨m, heq, -⟩ := execFinalize_eq s
    cases heq.symm.trans h
    rfl

/-- Turns of the engine from states with the same control registers end in such states: the phase picks the same micro-operation. -/
theorem engineTurn_control_eq {u s' u' : State} (hc : s.control = u.control) (hs : engineTurn s = .next s')
    (hu : engineTurn u = .next u') : s'.control = u'.control := by
  obtain ⟨i, hi, hs⟩ := engineTurn_next hs
  obtain ⟨i', hi', hu⟩ := engineTurn_next hu
  have hphase : s.phase = u.phase := congrArg Control.phase hc
  rw [hphase, hi'] at hi
  cases hi
  rw [exec_control hs, exec_control hu, hc]

end

/-- The micro-operation of a phase moves the phase along a row of the transition table: one row for each way its condition falls out. -/
theorem phase_after_mem_engineTransitions {i : Instr} {c : Control} (h : encode i = .phase c.phase) :
    (c.phase, (c.after i).phase) ∈ engineTransitions := by
  generalize hp : c.phase = p at h
  cases i with
  | digest | padded => cases h
  | holdIdle | holdDone | holdError => cases h; simp [Control.after, hp, engineTransitions]
  | init =>
    cases h
    simp only [Control.after]
    split
    · simp [engineTransitions]
    · split <;> simp [engineTransitions]
  | padLen =>
    cases h
    simp only [Control.after]
    split
    · split <;> simp [engineTransitions]
    · simp [hp, engineTransitions]
  | padMark | padCopy | padZero | wload | wexp | round | feed =>
    cases h
    simp only [Control.after]
    split <;> simp [hp, engineTransitions]
  | loadv | finalize => cases h; simp [Control.after, engineTransitions]

/-- Settles O30: the engine's turn is the micro-operation its phase encodes, and that moves the phase along a row. -/
theorem engineFollowsTheTransitionTable : Obligations.EngineFollowsTheTransitionTable := by
  intro s t h
  obtain ⟨i, hi, hexec⟩ := engineTurn_next h
  have hrow := phase_after_mem_engineTransitions (c := s.control) (encode_of_decode hi).1
  rwa [← exec_control hexec] at hrow

/-- A run of more than no steps is its first step and the run of the others. -/
theorem run_succ_next {n : Nat} {s t : State} (h : run (n + 1) s = .next t) : ∃ u, step s = .next u ∧ run n u = .next t := by
  rw [run] at h
  cases hstep : step s with
  | next u => rw [hstep] at h; exact ⟨u, rfl, h⟩
  | fault f => rw [hstep] at h; cases h
  | refused r => rw [hstep] at h; cases h

/-- Settles O31, by induction on the number of steps: each is a turn of the engine. -/
theorem pathDependsOnLengthOnly : Obligations.PathDependsOnLengthOnly := by
  intro n
  induction n with
  | zero =>
    rintro s u s' u' - - hc ⟨⟩ ⟨⟩
    exact hc
  | succ n ih =>
    intro s u s' u' hsa hua hc hs hu
    obtain ⟨s1, hs1, hs⟩ := run_succ_next hs
    obtain ⟨u1, hu1, hu⟩ := run_succ_next hu
    rw [step_engine hsa] at hs1
    rw [step_engine hua] at hu1
    have hc1 := engineTurn_control_eq (State.sameControl_iff.mp hc) hs1 hu1
    exact ih s1 u1 s' u' ((engineTurn_agenda hs1).trans hsa) ((engineTurn_agenda hu1).trans hua)
      (State.sameControl_iff.mpr hc1) hs hu

end Sys2Proof.Machine

/-! PROOF. The two commands (spec/45_host_commands.md R230 to R233): what acceptance does, and the operation it starts, run to its end
(R236). -/

namespace Sys2Proof.Machine

/-! ## Acceptance -/

theorem exec_digest (s : State) : exec .digest s = onCommand s (·.start 0) := rfl

theorem exec_padded (s : State) : exec .padded s = onCommand s (·.start 1) := rfl

/-- Settles O6: the phase is quiescent, busy or reserved. -/
theorem commandsStartAnOperation : Obligations.CommandsStartAnOperation := by
  refine ⟨fun s h => ?_, fun s h => ?_, fun s h => ?_⟩ <;> rw [exec_digest, exec_padded]
  · exact ⟨onCommand_quiescent h, onCommand_quiescent h⟩
  · exact ⟨onCommand_busy h, onCommand_busy h⟩
  · exact ⟨onCommand_reserved h _, onCommand_reserved h _⟩

/-- In a busy phase a byte written to `CMD` is ignored, whatever it is (R233). -/
theorem hostTurn_writeCmd_busy {s : State} (h : isBusy s.phase = true) (c : BitVec 8) :
    hostTurn (.writeCmd c) s = .next s :=
  (runCode_cmd c s).trans (onCommand_busy h)

/-- Settles O8: the phases 1 to 11 are the busy ones. -/
theorem commandWhileBusyIsIgnored : Obligations.CommandWhileBusyIsIgnored := by
  intro s c rest hs hlow hhigh
  have hbusy : isBusy s.phase = true := isBusy_iff.mpr ⟨hlow, hhigh⟩
  rw [step_host hs]
  exact hostTurn_writeCmd_busy (s := { s with agenda := rest }) hbusy c

/-- What the acceptance of the byte `c` makes of a state: it writes `ERR`, `op` and `phase` (R232, R263). -/
def State.accepted (s : State) (c : BitVec 8) : State :=
  { s with
    err := if c = 1 ∨ c = 2 then 0 else 3
    op := if c = 1 then 0 else if c = 2 then 1 else s.op
    phase := if c = 1 ∨ c = 2 then 1 else 13 }

/-- In a quiescent phase any byte written to `CMD` is accepted (R232, R263). -/
theorem hostTurn_writeCmd_quiescent {s : State} (h : isQuiescent s.phase = true) (c : BitVec 8) :
    hostTurn (.writeCmd c) s = .next (s.accepted c) := by
  refine ((runCode_cmd c s).trans (onCommand_quiescent h)).trans ?_
  by_cases h1 : c = 0x01#8
  · subst h1; rfl
  · by_cases h2 : c = 0x02#8
    · subst h2; rfl
    · simp [State.accepted, State.raise, State.clearError, errorCode, h1, h2]

theorem isQuiescent_iff {ph : BitVec 4} : isQuiescent ph = true ↔ ph = 0 ∨ ph = 12 ∨ ph = 13 := by
  simp [isQuiescent, isDone, isError, or_assoc]

/-- Settles O7: after acceptance the phase is not DONE, so no result is readable, and after a command it is INIT, which is busy. -/
theorem acceptanceWritesOpErrPhaseOnly : Obligations.AcceptanceWritesOpErrPhaseOnly := by
  intro s c rest hs hq
  have hstep := (step_host hs).trans
    (hostTurn_writeCmd_quiescent (s := { s with agenda := rest }) (isQuiescent_iff.mpr hq) c)
  refine ⟨_, hstep, rfl, resultsUnreadable_of_not_done ?_, fun hc => hostTurn_writeCmd_busy ?_⟩
  · show (if c = 1 ∨ c = 2 then (1 : BitVec 4) else 13) ≠ Phase.done
    split <;> decide
  · have hphase : (State.accepted { s with agenda := rest } c).phase = Phase.init := if_pos hc
    rw [hphase]; rfl

/-- Settles O21: each HOLD answers its state, and a quiescent phase is the code of one. -/
theorem quiescentPhasesHold : Obligations.QuiescentPhasesHold := by
  refine fun s => ⟨rfl, rfl, rfl, fun hq hs => ?_⟩
  rw [step_engine hs]
  obtain hp | hp | hp := isQuiescent_iff.mp hq
  · exact engineTurn_idle hp
  · exact engineTurn_done hp
  · exact engineTurn_error hp

/-! ## The operations (R236) -/

/-- Settles O52: the accepted DIGEST runs to DONE, and of what the statement names it changes `DIG`, `P` and `PLEN`. -/
theorem digestOperationComputesDigest : Obligations.DigestOperationComputesDigest := by
  intro s M hs hq hlen hcap hmsg
  obtain ⟨u, hrun, hdig, hu⟩ := run_digest hs hq hlen hcap hmsg
  have hplen : padLength s.msgLen = (pad M).length := by rw [hlen, pad_length]
  rw [digestSteps, ← pad_length] at hrun
  refine ⟨u, hrun, ?_⟩
  rw [hu] at hdig ⊢
  exact ⟨rfl, rfl, rfl, hdig, holds_padded _ M, hplen, rfl, rfl, rfl, rfl⟩

/-- Settles O53: after acceptance the operation is the padding stage. -/
theorem paddedOperationComputesPad : Obligations.PaddedOperationComputesPad := by
  intro s M hs hq hlen hcap hmsg
  have haccept := run_cons (n := 0) (step_cmd (op := 1) hs hq fun _ => rfl) rfl
  have hpadding := engineRun_padding (s := State.start { s with agenda := [] } 1) rfl hlen hcap hmsg
  have hrun := run_trans haccept (hpadding.run_eq (.inl rfl))
  have hplen : padLength s.msgLen = (pad M).length := by rw [hlen, pad_length]
  rw [paddedSteps, ← pad_length] at hrun
  exact ⟨_, hrun, rfl, rfl, rfl, holds_padded _ M, hplen, rfl, rfl, rfl, rfl, rfl⟩

/-- A run of the engine, cut short before its end, is a run of the engine to a busy phase. -/
theorem EngineRun.busy_before_end {m n : Nat} {s t : State} (h : EngineRun n s t) (hm : m < n) :
    ∃ u, EngineRun m s u ∧ isBusy u.phase = true := by
  induction h generalizing m with
  | refl s => cases hm
  | @cons n s u t hbusy hturn hrun ih =>
    cases m with
    | zero => exact ⟨s, .refl s, hbusy⟩
    | succ m =>
      obtain ⟨v, hv, hvbusy⟩ := ih (Nat.lt_of_succ_lt_succ hm)
      exact ⟨v, .cons hbusy hturn hv, hvbusy⟩

/-- From acceptance on, `STATUS.BUSY` is 1 before each turn of the run of the engine that an operation is (R237). -/
theorem busy_until_run_ends {s u : State} {c : BitVec 8} {op : BitVec 1} {m n : Nat} (hs : s.agenda = [.host (.writeCmd c)])
    (hq : isQuiescent s.phase = true) (hc : ∀ u, runCode (.cmd c) u = onCommand u (·.start op))
    (hrun : EngineRun n (State.start { s with agenda := [] } op) u) (hm1 : 1 ≤ m) (hm : m < 1 + n) :
    ∃ t, run m s = .next t ∧ (statusWord t).getLsbD 4 = true := by
  obtain ⟨m, rfl⟩ := Nat.exists_eq_add_of_le hm1
  obtain ⟨t, ht, hbusy⟩ := hrun.busy_before_end (Nat.lt_of_add_lt_add_left hm)
  have haccept := run_cons (n := 0) (step_cmd hs hq hc) rfl
  exact ⟨t, run_trans haccept (ht.run_eq (.inl rfl)), (statusWord_busy t).trans hbusy⟩

/-- Settles O54: each operation is a run of the engine of R236's length. -/
theorem operationIsBusyUntilItEnds : Obligations.OperationIsBusyUntilItEnds := by
  intro s M c m hs hq hlen hcap hmsg hm1
  refine ⟨fun hc hm => ?_, fun hc hm => ?_⟩ <;> subst hc
  · obtain ⟨u, hrun, -⟩ := engineRun_digest (s := State.start { s with agenda := [] } 0) rfl rfl hlen hcap hmsg
    exact busy_until_run_ends hs hq (fun _ => rfl) hrun hm1 hm
  · have hrun := engineRun_padding (s := State.start { s with agenda := [] } 1) rfl hlen hcap hmsg
    exact busy_until_run_ends hs hq (fun _ => rfl) hrun hm1 hm

end Sys2Proof.Machine

/-! PROOF. The reset event (spec/70_reset_and_hazards.md R300): after it nothing of the abandoned operation is readable. -/

namespace Sys2Proof.Machine

/-- After the reset event no byte of any memory is written (R45, R46). -/
@[simp] theorem State.peek_resetEvent (s : State) (sp : Space) (a : Nat) : s.resetEvent.peek sp a = none :=
  State.peek_resetWith s.par sp a

/-- Settles O25: the reset state is IDLE, so no result is readable, its memories are empty and its `MSG_LEN` is unwritten. -/
theorem resetEventAbandonsTheOperation : Obligations.ResetEventAbandonsTheOperation := by
  intro s rest hs
  refine ⟨State.resetEvent { s with agenda := rest }, step_reset hs, rfl, rfl, rfl, rfl, rfl, ?results, ?message, ?length⟩
  case results =>
    exact resultsUnreadable_of_not_done (by rw [State.resetEvent_phase]; decide)
  case message =>
    exact fun a ha => readsUnspecified_msg ha (State.peek_resetEvent _ .msg a)
  case length =>
    exact readsUnspecified_msgLen (State.resetEvent_msgLenWritten _)

end Sys2Proof.Machine
